-- ==== Sys2Proof/Word.lean ====
section
/-!
DEFINITION. The machine's words: bytes, 16-bit words, the narrower instruction fields, and register numbers.
Everything is unsigned (00_scope section 5: "Every value is unsigned").
-/

namespace Sys2Proof

/-- The addressable unit and the width of a general register (20_memory R40, 10_state R10). -/
abbrev Byte := BitVec 8

/-- An instruction word, and the width of `I`, `PC` and `SP` (30_encoding R70, 10_state R12 to R14). -/
abbrev Word := BitVec 16

/-- A nibble: "4-bit unit; an instruction word decomposes into four nibbles" (00_scope section 6). -/
abbrev Nibble := BitVec 4

/-- The 12-bit immediate `nnn` (30_encoding R71). -/
abbrev Addr12 := BitVec 12

/-- The number of a general register, 0..15 (10_state R10). -/
abbrev Reg := Fin 16

end Sys2Proof
end

