-- ==== Sys2Proof/Machine/Bits.lean ====
section
/-!
DEFINITION. Byte order, zero extension and field extraction (20_memory R44, 30_encoding R71, R73).
-/

namespace Sys2Proof.Machine

/-- `zext_16(nnn)` of a 12-bit immediate (30_encoding R73). -/
def zext16 (nnn : Addr12) : Word := nnn.setWidth 16

/-- `zext_16(v)` of a register's byte (42 R131, 40 R101). -/
def zextByte (b : Byte) : Word := b.setWidth 16

/-- The 16-bit quantity whose more significant byte is `hi`: `hi ++ lo` (20_memory R44). -/
def wordOfBytes (hi lo : Byte) : Word := hi ++ lo

/-- `r[15:8]`, the byte stored at the lower address (20_memory R44). -/
def hiByte (w : Word) : Byte := w.extractLsb' 8 8

/-- `r[7:0]`, the byte stored at the higher address (20_memory R44). -/
def loByte (w : Word) : Byte := w.extractLsb' 0 8

/-- The two bytes of a word as memory holds them, lower address first (20_memory R44). -/
def wordBytes (w : Word) : List Byte := [hiByte w, loByte w]

/-- `op` = `w[15:12]`, the family (30_encoding R71). -/
def opOf (w : Word) : Nibble := w.extractLsb' 12 4

/-- `x` = `w[11:8]` (30_encoding R71). -/
def xOf (w : Word) : Nibble := w.extractLsb' 8 4

/-- `y` = `w[7:4]` (30_encoding R71). -/
def yOf (w : Word) : Nibble := w.extractLsb' 4 4

/-- `n` = `w[3:0]` (30_encoding R71). -/
def nOf (w : Word) : Nibble := w.extractLsb' 0 4

end Sys2Proof.Machine
end

