-- ==== Sys2Proof/Config.lean ====
section
/-!
DEFINITION. The configuration of one machine (00_scope R6) and the model's free value (41_alu R126).

Every parameter of R6 has a name here. All are fields of `Config` but the two that R6 gives as formulas of others, `STACK_ENTRIES` and
`PROG_MAX`, which are functions of it. The parameters whose value is fixed by the source, or by the types of the state, are fields
too, and `Config.sourceFixed` (WellFormed.lean) says which value a machine of this spec has in them (log entry 22). The values the
spec takes are `Sys2Proof.Machine.standardConfig`.
-/

namespace Sys2Proof

/-- How Fx0A reads the source's "designated key": parameter `KEYWAIT_MODE` (00_scope R6; 92 decision D15, OPEN).
Both readings are modelled (44 R162, R163). -/
inductive KeyWaitMode where
  /-- Proceed when any key is down and store the least pressed key number in `V[x]` (44 R162); the default. -/
  | anyKeyLowest
  /-- Proceed when key `V[x]` is down and store nothing (44 R163). -/
  | designatedVx
  deriving DecidableEq, Repr

/-- The parameters of 00_scope R6, in its order, and the one that decision D7 adds. A claim can name or quantify over each. -/
structure Config where
  /-- `NREG`: number of general registers (source). -/
  nReg : Nat
  /-- `REG_W`: width of a general register, in bits (source). -/
  regW : Nat
  /-- `I_W`: width of the index register, in bits (source). -/
  iW : Nat
  /-- `PC_W`: width of `PC`, in bits (decision D11). -/
  pcW : Nat
  /-- `SP_W`: width of `SP`, in bits (decision D11). -/
  spW : Nat
  /-- `MEM_SIZE`: bytes of memory (decision D1). -/
  memSize : Nat
  /-- `PROG_BASE`: first byte of the program region, reset value of `PC`. -/
  progBase : Nat
  /-- `FONT_BASE`: first byte of the font region (decision D2). -/
  fontBase : Nat
  /-- `FONT_STRIDE`: bytes per glyph (source). -/
  fontStride : Nat
  /-- `FONT_COUNT`: glyphs (source). -/
  fontCount : Nat
  /-- `STACK_BASE`: the boundary the stack grows down from, reset value of `SP` (decision D3). -/
  stackBase : Nat
  /-- `STACK_LIMIT`: the lowest address `SP` may take (decision D3). -/
  stackLimit : Nat
  /-- `FB_AUTH_BASE`: first byte of the authoritative frame (decision D3). -/
  fbAuthBase : Nat
  /-- `FB_DISP_BASE`: first byte of the display frame (decision D3). -/
  fbDispBase : Nat
  /-- `FB_LEN`: bytes in each frame (source: the product 64 × 32 / 8). -/
  fbLen : Nat
  /-- `SCREEN_W`: columns of the logical screen (source). -/
  screenW : Nat
  /-- `SCREEN_H`: rows of the logical screen (source). -/
  screenH : Nat
  /-- `NKEYS`: keys (source). -/
  nKeys : Nat
  /-- `STRICT_ALIGN`: whether an odd `PC` at fetch is a failure (decision D10). -/
  strictAlign : Bool
  /-- `KEYWAIT_MODE`: the reading of Fx0A (decision D15). -/
  keyWaitMode : KeyWaitMode
  /-- `DEFAULT_SHIFT_QUIRK`: `SHIFT_QUIRK` after RESET (decision D17). -/
  defaultShiftQuirk : Bool
  /-- `DEFAULT_LOAD_STORE_QUIRK`: `LOAD_STORE_QUIRK` after RESET (decision D17). -/
  defaultLoadStoreQuirk : Bool
  /-- `CLS_UPDATES_DISPLAY`: whether CLS also recomputes the display frame (decision D7, U11; log entry 15). -/
  clsUpdatesDisplay : Bool
  deriving DecidableEq, Repr

/-- `PROG_MAX`: the largest program LOAD accepts, in bytes (00_scope R6, decision D18). -/
def Config.progMax (c : Config) : Nat := c.stackLimit - c.progBase

/-- `STACK_ENTRIES`: return addresses the stack holds (00_scope R6, decision D3). -/
def Config.stackEntries (c : Config) : Nat := (c.stackBase - c.stackLimit) / 2

/-- FREE VALUE (41_alu R126, 10_state R26(a), log entry 4): the byte drawn by the `k`-th executed Cxkk. It has no body, so
nothing can evaluate it or prove a value of it: a claim holds for every sequence of drawn bytes. -/
opaque Config.randomByte : Nat → Byte

end Sys2Proof
end

