-- ==== Sys2Proof/Syntax.lean ====
section
/-!
DEFINITION. The instruction set as syntax: one constructor per row of spec/opcode_table.json, in the table's order
(30_encoding R75). A constructor carries exactly the fields its format has (30_encoding R72), each in a type that holds exactly
the values the field can encode.
-/

namespace Sys2Proof

/-- The 34 instructions (30_encoding R75). -/
inductive Instr where
  /-- 00E0 CLS (43 R143) -/
  | cls
  /-- 00EE RET (40 R94) -/
  | ret
  /-- 1nnn JP addr (40 R95) -/
  | jp (nnn : Addr12)
  /-- 2nnn CALL addr (40 R96) -/
  | call (nnn : Addr12)
  /-- 3xkk SE Vx, byte (40 R97) -/
  | seByte (x : Reg) (kk : Byte)
  /-- 4xkk SNE Vx, byte (40 R98) -/
  | sneByte (x : Reg) (kk : Byte)
  /-- 5xy0 SE Vx, Vy (40 R99) -/
  | seReg (x y : Reg)
  /-- 6xkk LD Vx, byte (41 R110) -/
  | ldByte (x : Reg) (kk : Byte)
  /-- 7xkk ADD Vx, byte (41 R111) -/
  | addByte (x : Reg) (kk : Byte)
  /-- 8xy0 LD Vx, Vy (41 R112) -/
  | ldReg (x y : Reg)
  /-- 8xy1 OR Vx, Vy (41 R113) -/
  | orReg (x y : Reg)
  /-- 8xy2 AND Vx, Vy (41 R114) -/
  | andReg (x y : Reg)
  /-- 8xy3 XOR Vx, Vy (41 R115) -/
  | xorReg (x y : Reg)
  /-- 8xy4 ADD Vx, Vy (41 R116) -/
  | addReg (x y : Reg)
  /-- 8xy5 SUB Vx, Vy (41 R117) -/
  | sub (x y : Reg)
  /-- 8xy6 SHR Vx, Vy (41 R118) -/
  | shr (x y : Reg)
  /-- 8xy7 SUBN Vx, Vy (41 R119) -/
  | subn (x y : Reg)
  /-- 8xyE SHL Vx, Vy (41 R120) -/
  | shl (x y : Reg)
  /-- 9xy0 SNE Vx, Vy (40 R100) -/
  | sneReg (x y : Reg)
  /-- Annn LD I, addr (42 R130) -/
  | ldI (nnn : Addr12)
  /-- Bnnn JP V0, addr (40 R101) -/
  | jpV0 (nnn : Addr12)
  /-- Cxkk RND Vx, byte (41 R121) -/
  | rnd (x : Reg) (kk : Byte)
  /-- Dxyn DRW Vx, Vy, nibble (43 R144) -/
  | drw (x y : Reg) (n : Nibble)
  /-- Ex9E SKP Vx (44 R160) -/
  | skp (x : Reg)
  /-- ExA1 SKNP Vx (44 R161) -/
  | sknp (x : Reg)
  /-- Fx07 LD Vx, DT (44 R164) -/
  | ldVxDt (x : Reg)
  /-- Fx0A LD Vx, K (44 R162, R163) -/
  | ldVxK (x : Reg)
  /-- Fx15 LD DT, Vx (44 R165) -/
  | ldDtVx (x : Reg)
  /-- Fx18 LD ST, Vx (44 R166) -/
  | ldStVx (x : Reg)
  /-- Fx1E ADD I, Vx (42 R131) -/
  | addI (x : Reg)
  /-- Fx29 LD F, Vx (42 R132) -/
  | ldF (x : Reg)
  /-- Fx33 LD B, Vx (42 R133) -/
  | ldB (x : Reg)
  /-- Fx55 LD [I], Vx (42 R134) -/
  | ldMemVx (x : Reg)
  /-- Fx65 LD Vx, [I] (42 R135) -/
  | ldVxMem (x : Reg)
  deriving DecidableEq, Repr

end Sys2Proof
end

