-- ==== Sys2Proof/WellFormed.lean ====
section
/-!
DEFINITION. Well-formedness.

EVERY TERM OF `Instr` IS WELL FORMED, so there is no check on it: its fields have types (`Reg`, `Nibble`, `Byte`, `Addr12`) that
hold exactly the values an encoding holds, and "every combination of field values inside a legal pattern is legal"
(30_encoding R79). Whether a 16-bit WORD is legal is `Sys2Proof.legalWord` in Decode.lean.

What can be ill formed is a configuration: the checks of 00_scope R7, the width check the 16-bit `PC` and `SP` need, and the values
the source fixes.
-/

namespace Sys2Proof

/-- R7: "`MEM_SIZE` ≤ 65536". -/
abbrev Config.sizeFits (c : Config) : Prop := c.memSize ≤ 65536

/-- R7: "`FONT_BASE` + `FONT_STRIDE` × `FONT_COUNT` ≤ `PROG_BASE`". -/
abbrev Config.fontFits (c : Config) : Prop := c.fontBase + c.fontStride * c.fontCount ≤ c.progBase

/-- R7: "`PROG_BASE` < `STACK_LIMIT` < `STACK_BASE` ≤ `MEM_SIZE`". -/
abbrev Config.stackOrdered (c : Config) : Prop :=
  c.progBase < c.stackLimit ∧ c.stackLimit < c.stackBase ∧ c.stackBase ≤ c.memSize

/-- R7: "`STACK_LIMIT` and `STACK_BASE` are even". -/
abbrev Config.stackEven (c : Config) : Prop := c.stackLimit % 2 = 0 ∧ c.stackBase % 2 = 0

/-- R7: the two frames lie inside [`PROG_BASE`, `MEM_SIZE`). (The stack region does by `stackOrdered`.) -/
abbrev Config.framesInside (c : Config) : Prop :=
  c.progBase ≤ c.fbAuthBase ∧ c.fbAuthBase + c.fbLen ≤ c.memSize ∧
    c.progBase ≤ c.fbDispBase ∧ c.fbDispBase + c.fbLen ≤ c.memSize

/-- Two address ranges, each a first address and the address after the last, share no address. -/
abbrev rangesDisjoint (a₁ b₁ a₂ b₂ : Nat) : Prop := b₁ ≤ a₂ ∨ b₂ ≤ a₁

/-- R7: the three tail regions are "pairwise disjoint". -/
abbrev Config.tailDisjoint (c : Config) : Prop :=
  rangesDisjoint c.stackLimit c.stackBase c.fbAuthBase (c.fbAuthBase + c.fbLen) ∧
    rangesDisjoint c.stackLimit c.stackBase c.fbDispBase (c.fbDispBase + c.fbLen) ∧
    rangesDisjoint c.fbAuthBase (c.fbAuthBase + c.fbLen) c.fbDispBase (c.fbDispBase + c.fbLen)

/-- DEDUCED (log entry 2): `SP` = `STACK_BASE` and `PC` = `MEM_SIZE` + 2 fit in 16 bits, as 10_state R13 ("both below 65536") and
R14 take for granted and R7 does not check. -/
abbrev Config.widthsFit (c : Config) : Prop := c.stackBase < 65536 ∧ c.memSize + 2 < 65536

/-- DEDUCED (log entry 22): the counts, widths and sizes of R6 that the source states, and the widths of `PC` and `SP` (decision
D11), have the value R6 gives them. The rules are written for these values and no others (`V[0]`..`V[15]`, "8 × r", "mod 64", "0..15"). -/
abbrev Config.sourceFixed (c : Config) : Prop :=
  (c.nReg = 16 ∧ c.regW = 8 ∧ c.iW = 16 ∧ c.pcW = 16 ∧ c.spW = 16) ∧ (c.fontStride = 5 ∧ c.fontCount = 16) ∧
    (c.fbLen = 256 ∧ c.screenW = 64 ∧ c.screenH = 32) ∧ c.nKeys = 16

/-- A well-formed configuration: the checks of 00_scope R7 with `widthsFit` and `sourceFixed`. "A model should refuse a configuration that breaks
one": `step` does. -/
abbrev Config.Wf (c : Config) : Prop :=
  c.sizeFits ∧ c.fontFits ∧ c.stackOrdered ∧ c.stackEven ∧ c.framesInside ∧ c.tailDisjoint ∧ c.widthsFit ∧
    c.sourceFixed

end Sys2Proof
end

