-- ==== Sys2Proof/Machine/Params.lean ====
section
/-!
DEFINITION. The values the spec takes for its parameters (00_scope R6), the font (20_memory R42) and the reset values
(10_state R29, 70 R200).
-/

namespace Sys2Proof.Machine

/-- The value column of 00_scope R6, and the default of decision D7 (log entries 8, 15). -/
def standardConfig : Config where
  nReg := 16
  regW := 8
  iW := 16
  pcW := 16
  spW := 16
  memSize := 4096
  progBase := 0x200
  fontBase := 0x000
  fontStride := 5
  fontCount := 16
  stackBase := 0xE00
  stackLimit := 0xDE0
  fbAuthBase := 0xE00
  fbDispBase := 0xF00
  fbLen := 256
  screenW := 64
  screenH := 32
  nKeys := 16
  strictAlign := true
  keyWaitMode := .anyKeyLowest
  defaultShiftQuirk := true
  defaultLoadStoreQuirk := true
  clsUpdatesDisplay := false

/-- The glyphs of the digits 0 to 7, five row bytes each (20_memory R42). -/
def glyphsLow : List (List Byte) :=
  [[0xF0, 0x90, 0x90, 0x90, 0xF0],
   [0x20, 0x60, 0x20, 0x20, 0x70],
   [0xF0, 0x10, 0xF0, 0x80, 0xF0],
   [0xF0, 0x10, 0xF0, 0x10, 0xF0],
   [0x90, 0x90, 0xF0, 0x10, 0x10],
   [0xF0, 0x80, 0xF0, 0x10, 0xF0],
   [0xF0, 0x80, 0xF0, 0x90, 0xF0],
   [0xF0, 0x10, 0x20, 0x40, 0x40]]

/-- The glyphs of the digits 8 to F (20_memory R42). -/
def glyphsHigh : List (List Byte) :=
  [[0xF0, 0x90, 0xF0, 0x90, 0xF0],
   [0xF0, 0x90, 0xF0, 0x10, 0xF0],
   [0xF0, 0x90, 0xF0, 0x90, 0x90],
   [0xE0, 0x90, 0xE0, 0x90, 0xE0],
   [0xF0, 0x80, 0x80, 0x80, 0xF0],
   [0xE0, 0x90, 0x90, 0x90, 0xE0],
   [0xF0, 0x80, 0xF0, 0x80, 0xF0],
   [0xF0, 0x80, 0xF0, 0x80, 0x80]]

/-- `GLYPH[d][j]`: row `j` of the glyph of hexadecimal digit `d` (20_memory R42); 0 outside the table. -/
def glyphByte (d j : Nat) : Byte := ((glyphsLow ++ glyphsHigh).getD d []).getD j 0

/-- What an address of `MEM` holds after RESET (10_state R29, 70 R200): the font at `FONT_BASE`, 0x00 elsewhere. It is what an
address reads as that the memory does not list (log entry 7). -/
def resetByte (c : Config) (a : Nat) : Byte :=
  if c.fontBase ≤ a ∧ a < c.fontBase + c.fontStride * c.fontCount then
    glyphByte ((a - c.fontBase) / c.fontStride) ((a - c.fontBase) % c.fontStride)
  else 0

/-- `V[0]`..`V[15]` after RESET: 0 (10_state R29). -/
def resetV : Vector Byte 16 := Vector.replicate 16 0

/-- `I` after RESET: 0 (10_state R29). -/
def resetI : Word := 0

/-- `PC` after RESET and after LOAD: `PROG_BASE` (10_state R29, 70 R204). -/
def resetPC (c : Config) : Word := BitVec.ofNat 16 c.progBase

/-- `SP` after RESET and after LOAD: `STACK_BASE` (10_state R29, 70 R204). -/
def resetSP (c : Config) : Word := BitVec.ofNat 16 c.stackBase

/-- `DT` and `ST` after RESET: 0 (10_state R29). -/
def resetTimer : Byte := 0

/-- `KEY[0]`..`KEY[15]` after RESET: released (10_state R29). -/
def resetKey : Vector Bool 16 := Vector.replicate 16 false

/-- `FBprev` after RESET: 0x00 in all 256 bytes (10_state R29). -/
def resetFbPrev : Vector Byte 256 := Vector.replicate 256 0

end Sys2Proof.Machine
end

