-- ==== Sys2Proof/Machine/State.lean ====
section
/-!
DEFINITION. The machine's state as plain data (10_state), the failures of a step (60 R171), and the state after RESET
(10_state R29).
-/

namespace Sys2Proof.Machine

/-- Which stack operation left the stack's bounds (60 R171, code 1). -/
inductive StackOp where
  | onCall
  | onReturn
  deriving DecidableEq, Repr

/-- Which access left memory (60 R171, code 4). -/
inductive AccessKind where
  | fetch
  | data
  deriving DecidableEq, Repr

/-- What a general register was used as when its value was above 15 (60 R171, code 5). -/
inductive OperandKind where
  | key
  | font
  deriving DecidableEq, Repr

/-- The failure causes of a step with the information they record (60 R171). A failing step takes a next state in which
`State.fault` holds the cause and all else is as before (60 R176); a step of a machine that already holds one ends in
`Host.Outcome.fault` with that cause and changes nothing (60 R177). Both are what the spec says, so safe (log entry 3). -/
inductive Fault where
  /-- Code 1. Raised by CALL on a full stack and RET on an empty one (60 R172). Safe: the spec names it. -/
  | stackBounds (op : StackOp)
  /-- Code 2. Raised by the fetch of any step at an odd `PC` when `STRICT_ALIGN` (60 R173). Safe: the spec names it. -/
  | misalignedPC (pc : Word)
  /-- Code 3. Raised by decode on a word that is none of the 34 instructions (60 R174). Safe: the spec names it. -/
  | unimplementedInstruction (w : Word)
  /-- Code 4. Raised by fetch, Fx33, Fx55, Fx65 and Dxyn on a range not wholly in memory (60 R175, 20 R50). Safe: the spec
  names it. (CALL and RET raise it only in states no run reaches: log entry 10.) The address a fetch records is `PC`; at `PC` =
  `MEM_SIZE` - 1 that is a choice between two rules (log entry 23). -/
  | memoryOutOfBounds (kind : AccessKind) (addr : Nat)
  /-- Code 5. Raised by Ex9E, ExA1, Fx29, and Fx0A in mode `designatedVx`, on `V[x]` > 15 (60 R175). Safe: the spec names it. -/
  | operandOutOfRange (kind : OperandKind) (value : Byte)
  deriving DecidableEq, Repr

/-- Why the model gives a step no meaning. -/
inductive Refusal where
  /-- An arm of `exec` for an instruction that has no meaning yet. No arm is left that raises it. Safe: the machine stops. -/
  | notModelled (mnemonic : String)
  /-- Raised by `step` on a state whose configuration is not well formed: it breaks a check of 00_scope R7 ("a model should refuse
  a configuration that breaks one") or of log entries 2 and 22. Safe: the machine stops. -/
  | illFormedConfig
  deriving DecidableEq, Repr

/-- `MEM`, as the bytes that differ from their reset contents: strictly rising addresses, no entry equal to what its address
reads as unlisted (`Memory.Wf` in Ops.lean). -/
abbrev Memory := List Host.Cell

/-- A frame: 256 bytes (00_scope R6 `FB_LEN`). -/
abbrev Frame := Vector Byte 256

/-- The state of one machine (10_state, the tuple at its top), and two fields of the model's own: `draws`, `cfg`. -/
structure State where
  /-- `V[0]`..`V[15]` (R10); `V[15]` is VF (R11). -/
  v : Vector Byte 16
  /-- `I` (R12). -/
  i : Word
  /-- `PC` (R13). -/
  pc : Word
  /-- `SP` (R14). -/
  sp : Word
  /-- `DT` (R15). -/
  dt : Byte
  /-- `ST` (R16). -/
  st : Byte
  /-- `KEY[0]`..`KEY[15]`, true is pressed (R17). -/
  key : Vector Bool 16
  /-- `SHIFT_QUIRK` (R19). -/
  shiftQuirk : Bool
  /-- `LOAD_STORE_QUIRK` (R20). -/
  loadStoreQuirk : Bool
  /-- `MEM` (R21), the frames `FBauth` (R22) and `FBdisp` (R23) and the stack (20 R48) among it. -/
  mem : Memory
  /-- `FBprev` (R24). -/
  fbPrev : Frame
  /-- `FAULT` (R25); `none` is the spec's `none`. -/
  fault : Option Fault
  /-- The MODEL's: the index of the next drawn byte of Cxkk, `Config.randomByte draws` (41 R126; log entries 4, 5). -/
  draws : Nat
  /-- The MODEL's: the configuration, which no operation changes (00_scope R6, 10_state R26(b); log entry 1). -/
  cfg : Config
  deriving DecidableEq, Repr

/-- The state after RESET of a machine with configuration `c` (10_state R29, 70 R200), the next draw being number `draws`. -/
def State.resetOf (c : Config) (draws : Nat) : State where
  v := resetV
  i := resetI
  pc := resetPC c
  sp := resetSP c
  dt := resetTimer
  st := resetTimer
  key := resetKey
  shiftQuirk := c.defaultShiftQuirk
  loadStoreQuirk := c.defaultLoadStoreQuirk
  mem := []
  fbPrev := resetFbPrev
  fault := none
  draws := draws
  cfg := c

/-- The machine right after RESET (10_state R29), in the configuration the spec takes. -/
def State.reset : State := State.resetOf standardConfig 0

end Sys2Proof.Machine
end

