-- ==== Sys2Proof/Machine/Ops.lean ====
section
/-!
DEFINITION. The named operations over memory, registers, the stack and the frames, and the one operation that takes a failure.
Every meaning is written over these.
-/

namespace Sys2Proof.Machine

/-! ## Memory (20_memory) -/

/-- The entry a memory lists for an address, if any. -/
def Memory.lookup : Memory → Nat → Option Byte
  | [], _ => none
  | (a', b) :: m, a => if a' = a then some b else Memory.lookup m a

/-- One byte of `MEM` (20 R40). An unlisted address reads as its reset contents (log entry 7). -/
def Memory.read (c : Config) (m : Memory) (a : Nat) : Byte := (Memory.lookup m a).getD (resetByte c a)

/-- The entry to list for a byte at an address: none when the byte is what the address reads as unlisted. -/
def cellFor (c : Config) (a : Nat) (b : Byte) : Memory := if b = resetByte c a then [] else [(a, b)]

/-- Store one byte, keeping the canonical form (20 R40, R51). -/
def Memory.write (c : Config) : Memory → Nat → Byte → Memory
  | [], a, b => cellFor c a b
  | (a', b') :: m, a, b =>
    if a < a' then cellFor c a b ++ (a', b') :: m
    else if a = a' then cellFor c a b ++ m
    else (a', b') :: Memory.write c m a b

/-- Store bytes at consecutive addresses, ascending. -/
def Memory.writeBytes (c : Config) (m : Memory) (a : Nat) : List Byte → Memory
  | [] => m
  | b :: bs => Memory.writeBytes c (Memory.write c m a b) (a + 1) bs

/-- The canonical form: strictly rising addresses inside memory, no entry equal to what its address reads as unlisted. -/
abbrev Memory.Wf (c : Config) (m : Memory) : Prop :=
  m.Pairwise (fun p q => p.1 < q.1) ∧ ∀ p ∈ m, p.1 < c.memSize ∧ p.2 ≠ resetByte c p.1

/-- `MEM[a]` (00_scope section 5). -/
def State.readByte (s : State) (a : Nat) : Byte := Memory.read s.cfg s.mem a

/-- `MEM[a]`, ..., `MEM[a+n-1]`. -/
def State.readBytes (s : State) (a n : Nat) : List Byte := (List.range n).map (fun k => s.readByte (a + k))

/-- Store bytes at `a`, `a+1`, ..., ascending. -/
def State.writeBytes (s : State) (a : Nat) (bs : List Byte) : State :=
  { s with mem := Memory.writeBytes s.cfg s.mem a bs }

/-- `MemRead(a, 2)`: big-endian (20 R44). -/
def State.readWord (s : State) (a : Nat) : Word := wordOfBytes (s.readByte a) (s.readByte (a + 1))

/-- `MemWrite(a, 2, w)`: big-endian (20 R44). -/
def State.writeWord (s : State) (a : Nat) (w : Word) : State := s.writeBytes a (wordBytes w)

/-! ## Registers (10_state) -/

/-- `V[r]` (10_state R10). -/
def State.reg (s : State) (r : Reg) : Byte := s.v.get r

/-- `V[r] <- b` (10_state R10). No register is hardwired. -/
def State.setReg (s : State) (r : Reg) (b : Byte) : State := { s with v := s.v.set r b }

/-- The number of VF, the flag register (10_state R11). -/
abbrev vf : Reg := 15

/-- `V[k]`, `V[k+1]`, ... <- the bytes, ascending; used from `V[0]`, with at most 16 bytes (42 R135). -/
def State.setRegs (s : State) (k : Nat) : List Byte → State
  | [] => s
  | b :: bs => State.setRegs (s.setReg (Fin.ofNat 16 k) b) (k + 1) bs

/-- `KEY[k]` (10_state R17). -/
def State.keyDown (s : State) (k : Reg) : Bool := s.key.get k

/-! ## The program counter (40_step R91) -/

/-- "Advance PC by 2": an instruction word is two bytes (40 R91). A meaning is given the state BEFORE this advance, so that a
failure leaves `PC` at the failing instruction (60 R176; log entry 9). -/
def State.advance (s : State) : State := { s with pc := s.pc + 2 }

/-- `PC <- target`. -/
def State.jump (s : State) (target : Word) : State := { s with pc := target }

/-- The shape of all skips: past this instruction, and past one more when the condition holds (40 section 4). -/
def State.skipIf (s : State) (cond : Bool) : State := if cond then s.advance.advance else s.advance

/-! ## Taking a failure (60_exceptions R176) -/

/-- Failure entry, the machine's only exception (60 R170, R176): "every write the step has made so far is discarded", so the
next state is the state before the step with `FAULT` set to the cause. Nothing else is saved and control goes nowhere. There is
no return from it: RESET and LOAD alone clear `FAULT` (60 R178; Ports.lean). -/
def raise (cause : Fault) (s : State) : Host.Outcome State Fault Refusal := .next { s with fault := some cause }

/-- "Every failure condition of every instruction is tested before the instruction's first write" (60 R176): take the failure
if there is one, else the effect. -/
def attempt (s : State) (failure : Option Fault) (effect : State) : Host.Outcome State Fault Refusal :=
  match failure with
  | some cause => raise cause s
  | none => .next effect

/-- The code of a failure cause (60 R171). -/
def Fault.code : Fault → Nat
  | .stackBounds _ => 1
  | .misalignedPC _ => 2
  | .unimplementedInstruction _ => 3
  | .memoryOutOfBounds _ _ => 4
  | .operandOutOfRange _ _ => 5

/-- The bounds check of a data access of `n` bytes at `addr`: legal iff `addr + n ≤ MEM_SIZE`; the recorded address is the
lowest illegal one (20 R50). -/
def dataFault (s : State) (addr n : Nat) : Option Fault :=
  if addr + n ≤ s.cfg.memSize then none else some (.memoryOutOfBounds .data (max addr s.cfg.memSize))

/-! ## The stack (20_memory R48) -/

/-- What stops a push: "`SP` - 2 < `STACK_LIMIT`" over the integers; then, as for every `MemWrite`, the bounds of memory
(log entry 10). -/
def pushFault (s : State) : Option Fault :=
  if s.sp.toNat < s.cfg.stackLimit + 2 then some (.stackBounds .onCall) else dataFault s (s.sp.toNat - 2) 2

/-- `push(r)`: `SP <- SP - 2`, then `MemWrite(SP, 2, r)`. -/
def State.push (s : State) (r : Word) : State := { s with sp := s.sp - 2 }.writeWord (s.sp - 2).toNat r

/-- What stops a pop: "`SP` + 2 > `STACK_BASE`"; then, as for every `MemRead`, the bounds of memory. -/
def popFault (s : State) : Option Fault :=
  if s.sp.toNat + 2 > s.cfg.stackBase then some (.stackBounds .onReturn) else dataFault s s.sp.toNat 2

/-- The value `pop()` returns: `MemRead(SP, 2)`. -/
def State.top (s : State) : Word := s.readWord s.sp.toNat

/-- The state `pop()` leaves: `SP <- SP + 2`. The bytes of the entry are not cleared. -/
def State.pop (s : State) : State := { s with sp := s.sp + 2 }

/-! ## Frames (20_memory R49, 43_display R141) -/

/-- The frame whose byte `k` is `f k`. Irreducible so that no unification unfolds its 256 bytes; `Frame.byte_ofFn` (Laws) gives
each, and the kernel evaluates it as any definition. -/
@[irreducible] def Frame.ofFn (f : Nat → Byte) : Frame := ⟨((List.range 256).map f).toArray, by simp⟩

/-- Byte `k` of a frame; 0 for `k` outside it. -/
def Frame.byte (fr : Frame) (k : Nat) : Byte := fr[k]?.getD 0

/-- Replace byte `k` of a frame. -/
def Frame.setByte (fr : Frame) (k : Nat) (b : Byte) : Frame := fr.setIfInBounds k b

/-- The byte of a frame that holds pixel (`c`, `r`): `8 × r + (c div 8)` (43 R141). -/
def pixelByte (c r : Nat) : Nat := 8 * r + c / 8

/-- The bit of that byte: `7 - (c mod 8)` (43 R141). -/
def pixelBit (c : Nat) : Nat := 7 - c % 8

/-- Pixel (`c`, `r`) of a frame; true is lit (43 R141). -/
def Frame.pixel (fr : Frame) (c r : Nat) : Bool := (Frame.byte fr (pixelByte c r)).getLsbD (pixelBit c)

/-- Invert pixel (`c`, `r`) (43 R144 line 6, R145). -/
def Frame.flip (fr : Frame) (c r : Nat) : Frame :=
  Frame.setByte fr (pixelByte c r) (Frame.byte fr (pixelByte c r) ^^^ BitVec.twoPow 8 (pixelBit c))

/-- The frame that stands in `MEM` at `base`. -/
def State.frameAt (s : State) (base : Nat) : Frame := Frame.ofFn (fun k => s.readByte (base + k))

/-- `FBauth` (10_state R22). -/
def State.authFrame (s : State) : Frame := s.frameAt s.cfg.fbAuthBase

/-- `FBdisp` (10_state R23). -/
def State.dispFrame (s : State) : Frame := s.frameAt s.cfg.fbDispBase

/-- Store a whole frame in `MEM` at `base`. -/
def State.writeFrame (s : State) (base : Nat) (fr : Frame) : State := s.writeBytes base fr.toList

/-- `FBprev[k] <- FBauth[k]` for all `k`: the snapshot (43 R143, R144 line 5). -/
def State.snapshot (s : State) : State := { s with fbPrev := s.authFrame }

end Sys2Proof.Machine
end

