-- ==== Sys2Proof/Machine/Flags.lean ====
section
/-!
DEFINITION. The flag computations of 10_state R30. The one flag is VF, and "a flag write stores the 8-bit value 0 or 1".
-/

namespace Sys2Proof.Machine

/-- The byte a flag write stores (10_state R30). -/
def flagByte (b : Bool) : Byte := if b then 1 else 0

/-- `VF <- b`. -/
def State.setFlag (s : State) (b : Bool) : State := s.setReg vf (flagByte b)

/-- 8xy4: the unsigned 8-bit addition overflows (41 R116). -/
def carry (a b : Byte) : Bool := a.toNat + b.toNat > 255

/-- 8xy5, 8xy7: "not borrow", minuend ≥ subtrahend (41 R117, R119). -/
def notBorrow (minuend subtrahend : Byte) : Bool := minuend.toNat ≥ subtrahend.toNat

/-- 8xy6: the bit shifted out, bit 0 of the source (41 R118). -/
def shiftedOutRight (source : Byte) : Bool := source.getLsbD 0

/-- 8xyE: the bit shifted out, bit 7 of the source (41 R120). -/
def shiftedOutLeft (source : Byte) : Bool := source.getLsbD 7

/-- Write a result to `V[x]` and then a flag to VF: "the result is written to `V[x]`. Then ... the flag is written to VF", so
with `x` = 15 the result is lost and VF holds the flag (41 R123). -/
def State.setResultFlag (s : State) (x : Reg) (result : Byte) (flag : Bool) : State := (s.setReg x result).setFlag flag

end Sys2Proof.Machine
end

