-- ==== Sys2Proof/Machine/Operands.lean ====
section
/-!
DEFINITION. Operand forms: the shift source, key and font numbers, the glyph address, decimal digits, the bulk-transfer range,
the sprite, and the index register's advance.
-/

namespace Sys2Proof.Machine

/-- The source of 8xy6 and 8xyE: "register X when `shift_quirk` is set, else register Y" (10_state R19). -/
def shiftSource (s : State) (x y : Reg) : Byte := if s.shiftQuirk then s.reg x else s.reg y

/-- A register value used as a key number or a font digit must be 0..15 (44 R160, 42 R132). -/
def operandFault (kind : OperandKind) (value : Byte) : Option Fault :=
  if value.toNat > 15 then some (.operandOutOfRange kind value) else none

/-- The key a register value names; meant for values 0..15, which `operandFault` checks first. -/
def keyOf (value : Byte) : Reg := Fin.ofNat 16 value.toNat

/-- "The least k in 0..15 with KEY[k]", if any (44 R162). -/
def leastKey (s : State) : Option Reg := (List.finRange 16).find? (fun k => s.keyDown k)

/-- The address of the glyph of digit `d`: `FONT_BASE + FONT_STRIDE × d` (42 R132). -/
def glyphAddr (s : State) (d : Byte) : Word := BitVec.ofNat 16 (s.cfg.fontBase + s.cfg.fontStride * d.toNat)

/-- The hundreds, tens and ones digits of a byte, each a whole byte 0..9 (42 R133). -/
def bcdDigits (b : Byte) : List Byte :=
  [BitVec.ofNat 8 (b.toNat / 100), BitVec.ofNat 8 (b.toNat / 10 % 10), BitVec.ofNat 8 (b.toNat % 10)]

/-- The bytes of `V[0]`..`V[x]`, in that order (42 R134). -/
def regBytes (s : State) (x : Reg) : List Byte := (List.range (x.val + 1)).map (fun k => s.reg (Fin.ofNat 16 k))

/-- `I` after a bulk transfer of `V[0]`..`V[x]`: unchanged if `LOAD_STORE_QUIRK`, else advanced by `x` + 1 modulo 65536
(42 R134, R135, R137). -/
def bulkIndex (s : State) (x : Reg) : Word :=
  if s.loadStoreQuirk then s.i else s.i + BitVec.ofNat 16 (x.val + 1)

/-- The bounds check of a sprite of `n` rows: none is made when `n` = 0 (43 R144 line 2, R148). -/
def spriteFault (s : State) (n : Nibble) : Option Fault := if n = 0 then none else dataFault s s.i.toNat n.toNat

/-- The sprite: `n` bytes at `I`, top row first (43 R142). -/
def spriteRows (s : State) (n : Nibble) : List Byte := s.readBytes s.i.toNat n.toNat

end Sys2Proof.Machine
end

