-- ==== Sys2Proof/Machine/Alu.lean ====
section
/-!
DEFINITION. Register load, arithmetic, logic, shift and random (41_alu). None can fail; all leave `PC` at `pc0` + 2. Sources are
read first, then the result is written, then the flag (41 R123).
-/

namespace Sys2Proof.Machine

/-- 6xkk LD Vx, byte (41 R110). -/
def execLdByte (x : Reg) (kk : Byte) (s : State) : Host.Outcome State Fault Refusal :=
  attempt s none (s.setReg x kk).advance

/-- 7xkk ADD Vx, byte (41 R111): modulo 256, no flag. -/
def execAddByte (x : Reg) (kk : Byte) (s : State) : Host.Outcome State Fault Refusal :=
  attempt s none (s.setReg x (s.reg x + kk)).advance

/-- 8xy0 LD Vx, Vy (41 R112). -/
def execLdReg (x y : Reg) (s : State) : Host.Outcome State Fault Refusal :=
  attempt s none (s.setReg x (s.reg y)).advance

/-- 8xy1 OR Vx, Vy (41 R113): no flag. -/
def execOrReg (x y : Reg) (s : State) : Host.Outcome State Fault Refusal :=
  attempt s none (s.setReg x (s.reg x ||| s.reg y)).advance

/-- 8xy2 AND Vx, Vy (41 R114): no flag. -/
def execAndReg (x y : Reg) (s : State) : Host.Outcome State Fault Refusal :=
  attempt s none (s.setReg x (s.reg x &&& s.reg y)).advance

/-- 8xy3 XOR Vx, Vy (41 R115): no flag. -/
def execXorReg (x y : Reg) (s : State) : Host.Outcome State Fault Refusal :=
  attempt s none (s.setReg x (s.reg x ^^^ s.reg y)).advance

/-- 8xy4 ADD Vx, Vy (41 R116): modulo 256, VF is the carry. -/
def execAddReg (x y : Reg) (s : State) : Host.Outcome State Fault Refusal :=
  attempt s none (s.setResultFlag x (s.reg x + s.reg y) (carry (s.reg x) (s.reg y))).advance

/-- 8xy5 SUB Vx, Vy (41 R117): `V[x]` - `V[y]` modulo 256, VF is "not borrow". -/
def execSub (x y : Reg) (s : State) : Host.Outcome State Fault Refusal :=
  attempt s none (s.setResultFlag x (s.reg x - s.reg y) (notBorrow (s.reg x) (s.reg y))).advance

/-- 8xy6 SHR Vx, Vy (41 R118): logical shift right by one of the source `SHIFT_QUIRK` selects, VF is the bit shifted out. -/
def execShr (x y : Reg) (s : State) : Host.Outcome State Fault Refusal :=
  attempt s none (s.setResultFlag x (shiftSource s x y >>> 1) (shiftedOutRight (shiftSource s x y))).advance

/-- 8xy7 SUBN Vx, Vy (41 R119): `V[y]` - `V[x]` modulo 256, VF is "not borrow". -/
def execSubn (x y : Reg) (s : State) : Host.Outcome State Fault Refusal :=
  attempt s none (s.setResultFlag x (s.reg y - s.reg x) (notBorrow (s.reg y) (s.reg x))).advance

/-- 8xyE SHL Vx, Vy (41 R120): shift left by one of the source `SHIFT_QUIRK` selects, VF is the bit shifted out. -/
def execShl (x y : Reg) (s : State) : Host.Outcome State Fault Refusal :=
  attempt s none (s.setResultFlag x (shiftSource s x y <<< 1) (shiftedOutLeft (shiftSource s x y))).advance

/-- The state after one byte has been drawn: the next draw is another one (41 R121, "exactly one byte is drawn per executed
Cxkk"; log entry 4). -/
def State.drawn (s : State) : State := { s with draws := s.draws + 1 }

/-- Cxkk RND Vx, byte (41 R121): a free byte (R126) masked by `kk`. -/
def execRnd (x : Reg) (kk : Byte) (s : State) : Host.Outcome State Fault Refusal :=
  attempt s none (s.drawn.setReg x (Config.randomByte s.draws &&& kk)).advance

end Sys2Proof.Machine
end

