-- ==== Sys2Proof/Machine/Control.lean ====
section
/-!
DEFINITION. The control-transfer instructions (40_step_and_control_flow sections 2 to 4). A meaning is given the state before
the step, with `PC` = `pc0`; it says itself where `PC` goes (40 R93).
-/

namespace Sys2Proof.Machine

/-- 1nnn JP addr (40 R95): "`PC <- zext_16(nnn)`". Any target is accepted; the next fetch checks it (20 R47). -/
def execJp (nnn : Addr12) (s : State) : Host.Outcome State Fault Refusal := attempt s none (s.jump (zext16 nnn))

/-- 2nnn CALL addr (40 R96): push the address of the instruction after the CALL, `pc0` + 2, then jump. -/
def execCall (nnn : Addr12) (s : State) : Host.Outcome State Fault Refusal :=
  attempt s (pushFault s) ((s.push (s.pc + 2)).jump (zext16 nnn))

/-- 00EE RET (40 R94): `PC` takes the popped value, unchecked. -/
def execRet (s : State) : Host.Outcome State Fault Refusal := attempt s (popFault s) (s.pop.jump s.top)

/-- Bnnn JP V0, addr (40 R101): "`PC <- zext_16(nnn) + zext_16(V[0])`"; the register is always `V[0]` (90 C2). -/
def execJpV0 (nnn : Addr12) (s : State) : Host.Outcome State Fault Refusal :=
  attempt s none (s.jump (zext16 nnn + zextByte (s.reg 0)))

/-- 3xkk SE Vx, byte (40 R97). -/
def execSeByte (x : Reg) (kk : Byte) (s : State) : Host.Outcome State Fault Refusal :=
  attempt s none (s.skipIf (s.reg x == kk))

/-- 4xkk SNE Vx, byte (40 R98). -/
def execSneByte (x : Reg) (kk : Byte) (s : State) : Host.Outcome State Fault Refusal :=
  attempt s none (s.skipIf (s.reg x != kk))

/-- 5xy0 SE Vx, Vy (40 R99). -/
def execSeReg (x y : Reg) (s : State) : Host.Outcome State Fault Refusal :=
  attempt s none (s.skipIf (s.reg x == s.reg y))

/-- 9xy0 SNE Vx, Vy (40 R100). -/
def execSneReg (x y : Reg) (s : State) : Host.Outcome State Fault Refusal :=
  attempt s none (s.skipIf (s.reg x != s.reg y))

end Sys2Proof.Machine
end

