-- ==== Sys2Proof/Machine/Display.lean ====
section
/-!
DEFINITION. The display subsystem: CLS and DRW (43_display). DRW is written as the spec's pseudocode: the sprite is read whole,
the frame is snapshot, each set sprite bit inverts one pixel at wrapped coordinates, and the display frame becomes the OR of the
frames before and after.
-/

namespace Sys2Proof.Machine

/-- The screen pixels of the set bits of sprite row `r`, left to right: column `(x0 + c) mod w`, row `(y0 + r) mod h`, for
every `c` with bit `7 - c` set, on a screen of `w` columns and `h` rows (43 R144 line 6, R147). -/
def rowPixels (w h x0 y0 : Nat) (row : Byte) (r : Nat) : List (Nat × Nat) :=
  ((List.range 8).filter (fun c => row.getLsbD (7 - c))).map (fun c => ((x0 + c) % w, (y0 + r) % h))

/-- The screen pixels a sprite's set bits fall on, row by row from row `r` of the sprite down, on a screen of `w` columns and `h` rows (43 R144 line 6). -/
def spritePixels (w h x0 y0 : Nat) : Nat → List Byte → List (Nat × Nat)
  | _, [] => []
  | r, row :: rows => rowPixels w h x0 y0 row r ++ spritePixels w h x0 y0 (r + 1) rows

/-- The blit: each pixel met when lit sets the collision flag, and each is inverted (43 R144 line 6, R145). -/
def blit (fr : Frame) (collision : Bool) : List (Nat × Nat) → Frame × Bool
  | [] => (fr, collision)
  | p :: ps => blit (Frame.flip fr p.1 p.2) (collision || Frame.pixel fr p.1 p.2) ps

/-- The blend: `FBprev[k] | FBauth[k]` (43 R146). -/
def blend (before after : Frame) : Frame := Frame.ofFn (fun k => Frame.byte before k ||| Frame.byte after k)

/-- The authoritative frame and the collision flag a DRW leaves (43 R144 lines 4 and 6): the flag starts at 0. The screen's size is the
configuration's, 64 × 32 in a well-formed one (43 R140). -/
def drawResult (s : State) (x y : Reg) (n : Nibble) : Frame × Bool :=
  blit s.authFrame false
    (spritePixels s.cfg.screenW s.cfg.screenH (s.reg x).toNat (s.reg y).toNat 0 (spriteRows s n))

/-- A frame with no pixel lit. -/
def blankFrame : Frame := Frame.ofFn (fun _ => 0)

/-- The bytes CLS stores in `FBdisp`: none (43 R143), unless `CLS_UPDATES_DISPLAY`, then "`FBprev` OR `FBauth`", where `FBprev` is
the frame before the clear and `FBauth` the cleared one (92 decision D7). -/
def clearedDisplay (s : State) : List Byte :=
  if s.cfg.clsUpdatesDisplay then (blend s.authFrame blankFrame).toList else []

/-- 00E0 CLS (43 R143): snapshot, then `FBauth` all 0; VF is not written, nor, but for `CLS_UPDATES_DISPLAY`, `FBdisp`. -/
def execCls (s : State) : Host.Outcome State Fault Refusal :=
  attempt s none ((s.snapshot.writeFrame s.cfg.fbAuthBase blankFrame).writeBytes s.cfg.fbDispBase (clearedDisplay s)).advance

/-- Dxyn DRW Vx, Vy, nibble (43 R144): operands and the whole sprite are read from the state before the step (R149); then the
snapshot, the blitted `FBauth`, the blended `FBdisp`, and VF. -/
def execDrw (x y : Reg) (n : Nibble) (s : State) : Host.Outcome State Fault Refusal :=
  attempt s (spriteFault s n)
    ((((s.snapshot.writeFrame s.cfg.fbAuthBase (drawResult s x y n).1).writeFrame s.cfg.fbDispBase
      (blend s.authFrame (drawResult s x y n).1)).setFlag (drawResult s x y n).2).advance)

end Sys2Proof.Machine
end

