-- ==== Sys2Proof/Machine/IndexMem.lean ====
section
/-!
DEFINITION. The index-register and memory instructions (42_index_and_memory). All leave `PC` at `pc0` + 2 and write no flag. An
access checks its whole range first and does nothing if any byte is outside memory (20 R50).
-/

namespace Sys2Proof.Machine

/-- `I <- w`. -/
def State.setI (s : State) (w : Word) : State := { s with i := w }

/-- Annn LD I, addr (42 R130). -/
def execLdI (nnn : Addr12) (s : State) : Host.Outcome State Fault Refusal := attempt s none (s.setI (zext16 nnn)).advance

/-- Fx1E ADD I, Vx (42 R131): modulo 65536 (R137), no flag. -/
def execAddI (x : Reg) (s : State) : Host.Outcome State Fault Refusal :=
  attempt s none (s.setI (s.i + zextByte (s.reg x))).advance

/-- Fx29 LD F, Vx (42 R132): the address of the glyph of digit `V[x]`; fails when `V[x]` > 15. -/
def execLdF (x : Reg) (s : State) : Host.Outcome State Fault Refusal :=
  attempt s (operandFault .font (s.reg x)) (s.setI (glyphAddr s (s.reg x))).advance

/-- Fx33 LD B, Vx (42 R133): three decimal digits to `MEM[I..I+2]`; `I` is unchanged whatever `LOAD_STORE_QUIRK` is. -/
def execLdB (x : Reg) (s : State) : Host.Outcome State Fault Refusal :=
  attempt s (dataFault s s.i.toNat 3) (s.writeBytes s.i.toNat (bcdDigits (s.reg x))).advance

/-- Fx55 LD [I], Vx (42 R134): `V[0]`..`V[x]` to `MEM[I..I+x]`. -/
def execLdMemVx (x : Reg) (s : State) : Host.Outcome State Fault Refusal :=
  attempt s (dataFault s s.i.toNat (x.val + 1))
    ((s.writeBytes s.i.toNat (regBytes s x)).setI (bulkIndex s x)).advance

/-- Fx65 LD Vx, [I] (42 R135): `MEM[I..I+x]` to `V[0]`..`V[x]`. -/
def execLdVxMem (x : Reg) (s : State) : Host.Outcome State Fault Refusal :=
  attempt s (dataFault s s.i.toNat (x.val + 1))
    ((s.setRegs 0 (s.readBytes s.i.toNat (x.val + 1))).setI (bulkIndex s x)).advance

end Sys2Proof.Machine
end

