-- ==== Sys2Proof/Machine/KeypadTimers.lean ====
section
/-!
DEFINITION. Keypad and timer instructions (44_keypad_and_timers). None touches memory or writes a flag.
-/

namespace Sys2Proof.Machine

/-- Ex9E SKP Vx (44 R160): skip iff the key whose number is in `V[x]` is pressed; fails when `V[x]` > 15. -/
def execSkp (x : Reg) (s : State) : Host.Outcome State Fault Refusal :=
  attempt s (operandFault .key (s.reg x)) (s.skipIf (s.keyDown (keyOf (s.reg x))))

/-- ExA1 SKNP Vx (44 R161): skip iff that key is not pressed; fails when `V[x]` > 15. -/
def execSknp (x : Reg) (s : State) : Host.Outcome State Fault Refusal :=
  attempt s (operandFault .key (s.reg x)) (s.skipIf (!s.keyDown (keyOf (s.reg x))))

/-- Fx0A in `KEYWAIT_MODE` = `AnyKeyLowest` (44 R162): with no key down "`PC <- PC - 2`", which restores `pc0`, so that nothing
changes and the next step fetches the same word; else `V[x]` takes the least pressed key number. -/
def waitAnyKey (x : Reg) (s : State) : Host.Outcome State Fault Refusal :=
  match leastKey s with
  | none => attempt s none s
  | some k => attempt s none (s.setReg x (BitVec.ofNat 8 k.val)).advance

/-- Fx0A in `KEYWAIT_MODE` = `DesignatedVx` (44 R163): wait for key `V[x]`; no register is written in either case. -/
def waitDesignatedKey (x : Reg) (s : State) : Host.Outcome State Fault Refusal :=
  attempt s (operandFault .key (s.reg x)) (if s.keyDown (keyOf (s.reg x)) then s.advance else s)

/-- Fx0A LD Vx, K (44 R162, R163), in the configuration's `KEYWAIT_MODE` (log entry 14). -/
def execLdVxK (x : Reg) (s : State) : Host.Outcome State Fault Refusal :=
  match s.cfg.keyWaitMode with
  | .anyKeyLowest => waitAnyKey x s
  | .designatedVx => waitDesignatedKey x s

/-- Fx07 LD Vx, DT (44 R164). -/
def execLdVxDt (x : Reg) (s : State) : Host.Outcome State Fault Refusal := attempt s none (s.setReg x s.dt).advance

/-- Fx15 LD DT, Vx (44 R165). -/
def execLdDtVx (x : Reg) (s : State) : Host.Outcome State Fault Refusal := attempt s none { s with dt := s.reg x }.advance

/-- Fx18 LD ST, Vx (44 R166). -/
def execLdStVx (x : Reg) (s : State) : Host.Outcome State Fault Refusal := attempt s none { s with st := s.reg x }.advance

end Sys2Proof.Machine
end

