-- ==== Sys2Proof/Decode.lean ====
section
/-!
DEFINITION. Decoding and encoding (30_encoding). The decoder splits a word into its four nibbles and selects by family; the
encoder writes a constructor's word from its format (R72); `opcodeRows` is the spec's list of (match, mask) pairs (R75), kept
beside them as a second reading of the same table.
-/

namespace Sys2Proof

open Sys2Proof.Machine

/-- Why bytes are not an instruction. -/
inductive DecodeError where
  /-- The word is none of the 34 instructions (30_encoding R77); the step fails with `UnimplementedInstruction(w)`. -/
  | illegal (w : Word)
  /-- Fewer than two bytes were given. No step meets it: fetch reads two bytes or fails first (40 R90 line 3). -/
  | truncated
  deriving DecidableEq, Repr

/-- Dispatch on the four nibbles of a word (30_encoding R74); `kk` = `y ++ n`, `nnn` = `x ++ y ++ n` (R71). -/
def decodeNibbles (op x y n : Nibble) : Option Instr :=
  match op with
  | 0x0#4 =>
    if x ++ y ++ n = 0x0E0#12 then some .cls
    else if x ++ y ++ n = 0x0EE#12 then some .ret
    else none
  | 0x1#4 => some (.jp (x ++ y ++ n))
  | 0x2#4 => some (.call (x ++ y ++ n))
  | 0x3#4 => some (.seByte x.toFin (y ++ n))
  | 0x4#4 => some (.sneByte x.toFin (y ++ n))
  | 0x5#4 => if n = 0x0#4 then some (.seReg x.toFin y.toFin) else none
  | 0x6#4 => some (.ldByte x.toFin (y ++ n))
  | 0x7#4 => some (.addByte x.toFin (y ++ n))
  | 0x8#4 =>
    match n with
    | 0x0#4 => some (.ldReg x.toFin y.toFin)
    | 0x1#4 => some (.orReg x.toFin y.toFin)
    | 0x2#4 => some (.andReg x.toFin y.toFin)
    | 0x3#4 => some (.xorReg x.toFin y.toFin)
    | 0x4#4 => some (.addReg x.toFin y.toFin)
    | 0x5#4 => some (.sub x.toFin y.toFin)
    | 0x6#4 => some (.shr x.toFin y.toFin)
    | 0x7#4 => some (.subn x.toFin y.toFin)
    | 0xE#4 => some (.shl x.toFin y.toFin)
    | _ => none
  | 0x9#4 => if n = 0x0#4 then some (.sneReg x.toFin y.toFin) else none
  | 0xA#4 => some (.ldI (x ++ y ++ n))
  | 0xB#4 => some (.jpV0 (x ++ y ++ n))
  | 0xC#4 => some (.rnd x.toFin (y ++ n))
  | 0xD#4 => some (.drw x.toFin y.toFin n)
  | 0xE#4 =>
    match (y ++ n : Byte) with
    | 0x9E#8 => some (.skp x.toFin)
    | 0xA1#8 => some (.sknp x.toFin)
    | _ => none
  | 0xF#4 =>
    match (y ++ n : Byte) with
    | 0x07#8 => some (.ldVxDt x.toFin)
    | 0x0A#8 => some (.ldVxK x.toFin)
    | 0x15#8 => some (.ldDtVx x.toFin)
    | 0x18#8 => some (.ldStVx x.toFin)
    | 0x1E#8 => some (.addI x.toFin)
    | 0x29#8 => some (.ldF x.toFin)
    | 0x33#8 => some (.ldB x.toFin)
    | 0x55#8 => some (.ldMemVx x.toFin)
    | 0x65#8 => some (.ldVxMem x.toFin)
    | _ => none
  | _ => none

/-- "Decoding is a total function from 16-bit words to either one of the 34 instructions with its field values, or
`illegal`" (30_encoding R76). -/
def decodeWord (w : Word) : Except DecodeError Instr :=
  match decodeNibbles (opOf w) (xOf w) (yOf w) (nOf w) with
  | some i => .ok i
  | none => .error (.illegal w)

/-- Decode the instruction at the head of a list of bytes, lower address first, and give the bytes after it (R70). -/
def decodeBytes : List Byte → Except DecodeError (Instr × List Byte)
  | hi :: lo :: rest =>
    match decodeWord (wordOfBytes hi lo) with
    | .ok i => .ok (i, rest)
    | .error e => .error e
  | _ => .error .truncated

/-- The register number as the 4-bit field that encodes it. -/
def regBits (r : Reg) : Nibble := BitVec.ofFin r

/-- The word of an instruction, field by field from the formats of 30_encoding R72 and the patterns of R75. -/
def encode : Instr → Word
  | .cls => 0x00E0#16
  | .ret => 0x00EE#16
  | .jp nnn => 0x1#4 ++ nnn
  | .call nnn => 0x2#4 ++ nnn
  | .seByte x kk => 0x3#4 ++ regBits x ++ kk
  | .sneByte x kk => 0x4#4 ++ regBits x ++ kk
  | .seReg x y => 0x5#4 ++ regBits x ++ regBits y ++ 0x0#4
  | .ldByte x kk => 0x6#4 ++ regBits x ++ kk
  | .addByte x kk => 0x7#4 ++ regBits x ++ kk
  | .ldReg x y => 0x8#4 ++ regBits x ++ regBits y ++ 0x0#4
  | .orReg x y => 0x8#4 ++ regBits x ++ regBits y ++ 0x1#4
  | .andReg x y => 0x8#4 ++ regBits x ++ regBits y ++ 0x2#4
  | .xorReg x y => 0x8#4 ++ regBits x ++ regBits y ++ 0x3#4
  | .addReg x y => 0x8#4 ++ regBits x ++ regBits y ++ 0x4#4
  | .sub x y => 0x8#4 ++ regBits x ++ regBits y ++ 0x5#4
  | .shr x y => 0x8#4 ++ regBits x ++ regBits y ++ 0x6#4
  | .subn x y => 0x8#4 ++ regBits x ++ regBits y ++ 0x7#4
  | .shl x y => 0x8#4 ++ regBits x ++ regBits y ++ 0xE#4
  | .sneReg x y => 0x9#4 ++ regBits x ++ regBits y ++ 0x0#4
  | .ldI nnn => 0xA#4 ++ nnn
  | .jpV0 nnn => 0xB#4 ++ nnn
  | .rnd x kk => 0xC#4 ++ regBits x ++ kk
  | .drw x y n => 0xD#4 ++ regBits x ++ regBits y ++ n
  | .skp x => 0xE#4 ++ regBits x ++ 0x9E#8
  | .sknp x => 0xE#4 ++ regBits x ++ 0xA1#8
  | .ldVxDt x => 0xF#4 ++ regBits x ++ 0x07#8
  | .ldVxK x => 0xF#4 ++ regBits x ++ 0x0A#8
  | .ldDtVx x => 0xF#4 ++ regBits x ++ 0x15#8
  | .ldStVx x => 0xF#4 ++ regBits x ++ 0x18#8
  | .addI x => 0xF#4 ++ regBits x ++ 0x1E#8
  | .ldF x => 0xF#4 ++ regBits x ++ 0x29#8
  | .ldB x => 0xF#4 ++ regBits x ++ 0x33#8
  | .ldMemVx x => 0xF#4 ++ regBits x ++ 0x55#8
  | .ldVxMem x => 0xF#4 ++ regBits x ++ 0x65#8

/-- The bytes of an instruction as memory holds them, lower address first (R70, 20_memory R44). -/
def encodeBytes (i : Instr) : List Byte := wordBytes (encode i)

/-- The (match, mask) pairs of 30_encoding R75, in its order: rows 1 to 9. -/
def opcodeRowsA : List (Word × Word) :=
  [(0x00E0, 0xFFFF), (0x00EE, 0xFFFF), (0x1000, 0xF000), (0x2000, 0xF000), (0x3000, 0xF000), (0x4000, 0xF000),
   (0x5000, 0xF00F), (0x6000, 0xF000), (0x7000, 0xF000)]

/-- R75, rows 10 to 23. -/
def opcodeRowsB : List (Word × Word) :=
  [(0x8000, 0xF00F), (0x8001, 0xF00F), (0x8002, 0xF00F), (0x8003, 0xF00F), (0x8004, 0xF00F), (0x8005, 0xF00F),
   (0x8006, 0xF00F), (0x8007, 0xF00F), (0x800E, 0xF00F), (0x9000, 0xF00F), (0xA000, 0xF000), (0xB000, 0xF000),
   (0xC000, 0xF000), (0xD000, 0xF000)]

/-- R75, rows 24 to 34. -/
def opcodeRowsC : List (Word × Word) :=
  [(0xE09E, 0xF0FF), (0xE0A1, 0xF0FF), (0xF007, 0xF0FF), (0xF00A, 0xF0FF), (0xF015, 0xF0FF), (0xF018, 0xF0FF),
   (0xF01E, 0xF0FF), (0xF029, 0xF0FF), (0xF033, 0xF0FF), (0xF055, 0xF0FF), (0xF065, 0xF0FF)]

/-- The 34 rows of 30_encoding R75 as (match, mask). -/
def opcodeRows : List (Word × Word) := opcodeRowsA ++ opcodeRowsB ++ opcodeRowsC

/-- A word satisfies a row "iff `w & mask = match`" (30_encoding R75). -/
def rowMatches (w : Word) (row : Word × Word) : Bool := w &&& row.2 == row.1

/-- A word is legal iff it satisfies a row of the table (30_encoding R76, R77). -/
def legalWord (w : Word) : Bool := opcodeRows.any (rowMatches w)

/-- The row of 30_encoding R75 (match, mask) an instruction stands in. -/
def rowOf : Instr → Word × Word
  | .cls => (0x00E0, 0xFFFF)
  | .ret => (0x00EE, 0xFFFF)
  | .jp _ => (0x1000, 0xF000)
  | .call _ => (0x2000, 0xF000)
  | .seByte _ _ => (0x3000, 0xF000)
  | .sneByte _ _ => (0x4000, 0xF000)
  | .seReg _ _ => (0x5000, 0xF00F)
  | .ldByte _ _ => (0x6000, 0xF000)
  | .addByte _ _ => (0x7000, 0xF000)
  | .ldReg _ _ => (0x8000, 0xF00F)
  | .orReg _ _ => (0x8001, 0xF00F)
  | .andReg _ _ => (0x8002, 0xF00F)
  | .xorReg _ _ => (0x8003, 0xF00F)
  | .addReg _ _ => (0x8004, 0xF00F)
  | .sub _ _ => (0x8005, 0xF00F)
  | .shr _ _ => (0x8006, 0xF00F)
  | .subn _ _ => (0x8007, 0xF00F)
  | .shl _ _ => (0x800E, 0xF00F)
  | .sneReg _ _ => (0x9000, 0xF00F)
  | .ldI _ => (0xA000, 0xF000)
  | .jpV0 _ => (0xB000, 0xF000)
  | .rnd _ _ => (0xC000, 0xF000)
  | .drw _ _ _ => (0xD000, 0xF000)
  | .skp _ => (0xE09E, 0xF0FF)
  | .sknp _ => (0xE0A1, 0xF0FF)
  | .ldVxDt _ => (0xF007, 0xF0FF)
  | .ldVxK _ => (0xF00A, 0xF0FF)
  | .ldDtVx _ => (0xF015, 0xF0FF)
  | .ldStVx _ => (0xF018, 0xF0FF)
  | .addI _ => (0xF01E, 0xF0FF)
  | .ldF _ => (0xF029, 0xF0FF)
  | .ldB _ => (0xF033, 0xF0FF)
  | .ldMemVx _ => (0xF055, 0xF0FF)
  | .ldVxMem _ => (0xF065, 0xF0FF)

/-- The word whose bits, numbered as spec/opcode_table.json numbers them, are the low `nbits` bits of `w` (every bit above
is 0). An instruction is one 16-bit word, so bit 0 is the least significant bit of that word. -/
def tableWord (nbits w : Nat) : Word := BitVec.ofNat 16 (w % 2 ^ nbits)

/-- The instruction the decoder reads from the table's numbering of its bits: the word laid out as memory holds it, then
decoded. -/
def decodeTableWord (nbits w : Nat) : Option Instr :=
  match decodeBytes (wordBytes (tableWord nbits w)) with
  | .ok (i, _) => some i
  | .error _ => none

end Sys2Proof
end

