-- ==== Sys2Proof/Machine/Fetch.lean ====
section
/-!
DEFINITION. Fetching and decoding the instruction at `PC` (40 R90 lines 2 to 7, R91), and placing one there.
-/

namespace Sys2Proof.Machine

/-- What stops a fetch, in the order of 60 R179: an odd `PC` when `STRICT_ALIGN` (20 R47), then `PC` + 2 > `MEM_SIZE`. DESIGN CHOICE
(log entry 23): the recorded address is `PC`, as 20 R50, 40 R90 line 3 and test vector C33 say. At `PC` = `MEM_SIZE` - 1 the table of
60 R171 says another, "the lowest address outside memory that would be touched", which is `MEM_SIZE`; elsewhere they agree. -/
def fetchFault (s : State) : Option Fault :=
  if s.cfg.strictAlign = true ∧ s.pc.toNat % 2 = 1 then some (.misalignedPC s.pc)
  else if s.pc.toNat + 2 > s.cfg.memSize then some (.memoryOutOfBounds .fetch s.pc.toNat)
  else none

/-- `MemRead(PC, 2)`: "two consecutive bytes at PC (big-endian)" (40 R91). Fetch reads `MEM` directly, so it sees every earlier
store (20 R57). -/
def fetchWord (s : State) : Word := s.readWord s.pc.toNat

/-- The instruction the next step runs, or the failure it ends in (40 R90 lines 2 to 7). -/
def fetchInstr (s : State) : Except Fault Instr :=
  match fetchFault s with
  | some cause => .error cause
  | none =>
    match decodeWord (fetchWord s) with
    | .ok i => .ok i
    | .error _ => .error (.unimplementedInstruction (fetchWord s))

/-- The state with a word stored where the next step fetches; unchanged when that is not in memory. It is the effect of a LOAD on
those two bytes (70 R204; log entry 6). -/
def placeWord (s : State) (w : Word) : State :=
  if s.pc.toNat + 2 ≤ s.cfg.memSize then s.writeWord s.pc.toNat w else s

end Sys2Proof.Machine
end

