-- ==== Sys2Proof/Machine/Step.lean ====
section
/-!
DEFINITION. One step of the core (40 R90): "exactly one fetch-decode-execute step".
-/

namespace Sys2Proof.Machine

/-- The step (40 R90). A configuration that breaks 00_scope R7 is refused. A latched failure is returned and nothing changes
(line 1; 60 R177). Else fetch and decode, taking the failure they meet (lines 2 to 7), and run the instruction (line 8), which
is given the state as it stands and advances `PC` itself (line 5). -/
def step (s : State) : Host.Outcome State Fault Refusal :=
  if s.cfg.Wf then
    match s.fault with
    | some cause => .fault cause
    | none =>
      match fetchInstr s with
      | .error cause => raise cause s
      | .ok i => exec i s
  else .refused .illFormedConfig

/-- `s` with the instruction whose bits the opcode table numbers `w` stored where `step` fetches next. Nothing else changes:
after RESET the fetch needs nothing more (log entry 6). -/
def State.withFetchWord (s : State) (nbits w : Nat) : State := placeWord s (tableWord nbits w)

end Sys2Proof.Machine
end

