-- ==== Sys2Proof/Machine/Ports.lean ====
section
/-!
DEFINITION. The host's ports (60 R190): RESET, LOAD, STEP, TICK, SETKEY and the three views, each atomic, total, and applied
between steps. A run of the machine with its host is a list of operations, in any order (00_scope R3: "a model must admit every
interleaving").
-/

namespace Sys2Proof.Machine

/-- The refusals of a host operation, which change nothing and do not set `FAULT` (60 R186). -/
inductive ConfigError where
  /-- C1: the title is not in the ROM table, which is outside the block (70 R205). -/
  | unknownProgram
  /-- C2: SETKEY with an index not in 0..15. -/
  | keyIndexOutOfRange (index : Nat)
  /-- C3: LOAD of a program longer than `PROG_MAX` bytes. -/
  | programTooLarge (length : Nat)
  deriving DecidableEq, Repr

/-- What a port returns (60 R190). -/
inductive Reply where
  /-- RESET and TICK return nothing; a LOAD or SETKEY that was performed returns ok. -/
  | ok
  /-- STEP: success. -/
  | success
  /-- STEP: a failure cause. -/
  | failed (cause : Fault)
  /-- A configuration error. -/
  | rejected (e : ConfigError)
  /-- STEP of a state the model gives no step (an ill-formed configuration): the model's own. -/
  | noStep (r : Refusal)
  /-- MEMVIEW: all `MEM_SIZE` bytes. -/
  | memory (bytes : List Byte)
  /-- DISPVIEW: the display frame and its length. -/
  | display (bytes : List Byte) (length : Nat)
  /-- STVIEW: the sound timer. -/
  | sound (st : Byte)
  deriving DecidableEq, Repr

/-- A resolved program: "a fixed code blob plus two boolean quirk flags" (70 R204). -/
structure Program where
  bytes : List Byte
  shiftQuirk : Bool
  loadStoreQuirk : Bool
  deriving DecidableEq, Repr

/-- RESET (70 R200): every component at its reset value, whatever the state was. The configuration stays the machine's, and the
draws go on: bytes drawn after a RESET are not those drawn before it (log entry 4). -/
def resetPort (s : State) : State := State.resetOf s.cfg s.draws

/-- The effect of an accepted LOAD (70 R204); everything it does not name is unchanged (R206). -/
def loaded (p : Program) (s : State) : State :=
  { s.writeBytes s.cfg.progBase p.bytes with
    pc := resetPC s.cfg, sp := resetSP s.cfg, shiftQuirk := p.shiftQuirk, loadStoreQuirk := p.loadStoreQuirk, fault := none }

/-- LOAD after the title lookup, whose result is given: `none` is an unknown title (70 R204, R205). -/
def loadPort (found : Option Program) (s : State) : State × Reply :=
  match found with
  | none => (s, .rejected .unknownProgram)
  | some p =>
    if p.bytes.length > s.cfg.progMax then (s, .rejected (.programTooLarge p.bytes.length)) else (loaded p s, .ok)

/-- STEP (60 R191): one step; the returned cause is the latched one (40 R90). -/
def stepPort (s : State) : State × Reply :=
  match step s with
  | .next t =>
    match t.fault with
    | none => (t, .success)
    | some cause => (t, .failed cause)
  | .fault cause => (s, .failed cause)
  | .refused r => (s, .noStep r)

/-- One timer's decrement: "saturate at 0, never wrap negative" (60 R192). -/
def tickDown (b : Byte) : Byte := if b = 0 then 0 else b - 1

/-- TICK (60 R192): both timers, nothing else; it acts on a failed machine too (R177). -/
def tickPort (s : State) : State := { s with dt := tickDown s.dt, st := tickDown s.st }

/-- SETKEY (60 R193): one key's level, or a refusal; it acts on a failed machine too (R177). -/
def setKeyPort (index : Nat) (pressed : Bool) (s : State) : State × Reply :=
  if h : index < 16 then ({ s with key := s.key.set index pressed h }, .ok)
  else (s, .rejected (.keyIndexOutOfRange index))

/-- MEMVIEW (60 R194, 20 R58): all `MEM_SIZE` bytes of `MEM`. -/
def memView (s : State) : List Byte := s.readBytes 0 s.cfg.memSize

/-- DISPVIEW (60 R194, 20 R58): the bytes of `FBdisp`. -/
def dispView (s : State) : List Byte := s.dispFrame.toList

/-- The host's operations (60 R190). -/
inductive HostOp where
  | reset
  | load (found : Option Program)
  | step
  | tick
  | setKey (index : Nat) (pressed : Bool)
  | memView
  | dispView
  | stView
  deriving DecidableEq, Repr

/-- One operation: the state after it and what it returns (60 R190). The views change nothing. -/
def applyOp (op : HostOp) (s : State) : State × Reply :=
  match op with
  | .reset => (resetPort s, .ok)
  | .load found => loadPort found s
  | .step => stepPort s
  | .tick => (tickPort s, .ok)
  | .setKey index pressed => setKeyPort index pressed s
  | .memView => (s, .memory (memView s))
  | .dispView => (s, .display (dispView s) s.cfg.fbLen)
  | .stView => (s, .sound s.st)

/-- The state after a list of operations, first to last: every interleaving of the host's operations is one (00_scope R3,
20 R55). -/
def runOps : List HostOp → State → State
  | [], s => s
  | op :: ops, s => runOps ops (applyOp op s).1

end Sys2Proof.Machine
end

