-- ==== Sys2Proof/Safety.lean ====
section
/-!
DEFINITION. What counts as a well-kept state and an unharmed rest of the machine, in the terms the statements use.
-/

namespace Sys2Proof.Machine

/-- `SP` is even and within the reserved stack bounds (10_state R14). -/
abbrev State.SpInBounds (s : State) : Prop :=
  s.sp.toNat % 2 = 0 ∧ s.cfg.stackLimit ≤ s.sp.toNat ∧ s.sp.toNat ≤ s.cfg.stackBase

/-- The machine's invariant: a well-formed configuration (00_scope R7), the memory in its canonical form with nothing outside
`MEM_SIZE` (20_memory R40), and `SP` even and in bounds (10_state R14). -/
abbrev State.Inv (s : State) : Prop := s.cfg.Wf ∧ Memory.Wf s.cfg s.mem ∧ s.SpInBounds

/-- Every byte of memory reads as before. -/
def SameMemory (s t : State) : Prop := ∀ a, t.readByte a = s.readByte a

/-- Every byte of memory outside the `n` bytes at `base` reads as before. -/
def SameMemoryOutside (base n : Nat) (s t : State) : Prop :=
  ∀ a, a < base ∨ base + n ≤ a → t.readByte a = s.readByte a

/-- Every general register that is not in `rs` is as before. -/
def SameRegsBut (rs : List Reg) (s t : State) : Prop := ∀ r, r ∉ rs → t.reg r = s.reg r

/-- The frame of an instruction that writes the general registers in `rs` and `PC` and nothing else: every other register, `I`,
`SP`, the timers, the keys, the quirk flags, `FBprev`, the latch, the draws and the configuration are as before, and so is every
byte of memory. -/
def OnlyRegsAndPc (rs : List Reg) (s t : State) : Prop :=
  t = { s with v := t.v, pc := t.pc } ∧ SameRegsBut rs s t ∧ SameMemory s t

/-- The frame of an instruction that writes `PC` and nothing else. -/
def OnlyPc (s t : State) : Prop := t = { s with pc := t.pc } ∧ SameMemory s t

/-- The state a failing step leaves (60 R176): the state before it, with the cause latched. -/
def failedWith (cause : Fault) (s : State) : State := { s with fault := some cause }

end Sys2Proof.Machine
end

