-- ==== Sys2Proof/Certificates/Slice0/Obligations.lean ====
section
/-!
DEFINITION. The statements for the provers. Each says what an instruction, the step or a host operation does, from the spec's
numbered rules; the docstring names the rule. Statements about one instruction are about `exec` on any state; where a stack or a
frame must be where the configuration puts it, the premise is the invariant `State.Inv`, which has statements of its own
(`ResetMeetsInvariant`, `StepKeepsInvariant`, `HostOpsKeepInvariant`).
-/

open Sys2Proof
open Sys2Proof.Machine

namespace Sys2Proof.Claims

/-- Pixel (`c`, `r`) of the authoritative frame as it stands in memory: bit `7 - (c mod 8)` of
`MEM[FB_AUTH_BASE + 8×r + c div 8]` (20_memory R49). -/
def litAuth (s : State) (c r : Nat) : Prop :=
  (s.readByte (s.cfg.fbAuthBase + 8 * r + c / 8)).getLsbD (7 - c % 8) = true

/-- A set bit of the `n`-row sprite at `I` falls on screen pixel (`c`, `r`) when it is drawn at (`V[x]`, `V[y]`): bit `7 - b` of
sprite byte `k`, at column `(V[x] + b) mod 64` and row `(V[y] + k) mod 32` (43 R144 line 6). -/
def spriteOn (s : State) (x y : Reg) (n : Nibble) (c r : Nat) : Prop :=
  ∃ k b, k < n.toNat ∧ b < 8 ∧ (s.readByte (s.i.toNat + k)).getLsbD (7 - b) = true ∧
    c = ((s.reg x).toNat + b) % 64 ∧ r = ((s.reg y).toNat + k) % 32

/-- The bounds failure of a data access through `I`: the lowest illegal address (20_memory R50). -/
def dataOut (s : State) : Fault := .memoryOutOfBounds .data (max s.i.toNat s.cfg.memSize)

/-- Where a successful instruction leaves `PC` (40 R93, the table). -/
def pcAfter (s t : State) : Instr → Prop
  | .jp nnn => t.pc.toNat = nnn.toNat
  | .call nnn => t.pc.toNat = nnn.toNat
  | .ret => t.pc.toNat = 256 * (s.readByte s.sp.toNat).toNat + (s.readByte (s.sp.toNat + 1)).toNat
  | .jpV0 nnn => t.pc.toNat = nnn.toNat + (s.reg 0).toNat
  | .seByte x kk => t.pc = if s.reg x = kk then s.pc + 4 else s.pc + 2
  | .sneByte x kk => t.pc = if s.reg x ≠ kk then s.pc + 4 else s.pc + 2
  | .seReg x y => t.pc = if s.reg x = s.reg y then s.pc + 4 else s.pc + 2
  | .sneReg x y => t.pc = if s.reg x ≠ s.reg y then s.pc + 4 else s.pc + 2
  | .skp x => t.pc = if ∃ k : Reg, k.val = (s.reg x).toNat ∧ s.keyDown k = true then s.pc + 4 else s.pc + 2
  | .sknp x => t.pc = if ∃ k : Reg, k.val = (s.reg x).toNat ∧ s.keyDown k = true then s.pc + 2 else s.pc + 4
  | .ldVxK x =>
    match s.cfg.keyWaitMode with
    | .anyKeyLowest => t.pc = if ∃ k : Reg, s.keyDown k = true then s.pc + 2 else s.pc
    | .designatedVx => t.pc = if ∃ k : Reg, k.val = (s.reg x).toNat ∧ s.keyDown k = true then s.pc + 2 else s.pc
  | _ => t.pc = s.pc + 2

/-- When an instruction fails, and with which cause (60 R171, the table); `False` for the instructions that cannot. -/
def raises (s : State) (cause : Fault) : Instr → Prop
  | .call _ => s.sp.toNat = s.cfg.stackLimit ∧ cause = .stackBounds .onCall
  | .ret => s.sp.toNat = s.cfg.stackBase ∧ cause = .stackBounds .onReturn
  | .ldB _ => s.cfg.memSize < s.i.toNat + 3 ∧ cause = dataOut s
  | .ldMemVx x => s.cfg.memSize < s.i.toNat + x.val + 1 ∧ cause = dataOut s
  | .ldVxMem x => s.cfg.memSize < s.i.toNat + x.val + 1 ∧ cause = dataOut s
  | .drw _ _ n => n ≠ 0 ∧ s.cfg.memSize < s.i.toNat + n.toNat ∧ cause = dataOut s
  | .ldF x => 15 < (s.reg x).toNat ∧ cause = .operandOutOfRange .font (s.reg x)
  | .skp x => 15 < (s.reg x).toNat ∧ cause = .operandOutOfRange .key (s.reg x)
  | .sknp x => 15 < (s.reg x).toNat ∧ cause = .operandOutOfRange .key (s.reg x)
  | .ldVxK x =>
    s.cfg.keyWaitMode = .designatedVx ∧ 15 < (s.reg x).toNat ∧ cause = .operandOutOfRange .key (s.reg x)
  | _ => False

/-- The instructions that write VF as a flag (10_state R30, the table). -/
def writesFlag : Instr → Bool
  | .addReg _ _ | .sub _ _ | .subn _ _ | .shr _ _ | .shl _ _ | .drw _ _ _ => true
  | _ => false

/-- The other instructions that write `V[15]` as an ordinary register (10_state R30: "an instruction which writes `V[x]` ...
writes VF as an ordinary register when its `x` field is 15", and Fx65 with `x` = 15). -/
def writesVfAsRegister : Instr → Bool
  | .ldByte x _ | .addByte x _ | .rnd x _ | .ldVxDt x | .ldVxK x | .ldVxMem x => x == 15
  | .ldReg x _ | .orReg x _ | .andReg x _ | .xorReg x _ => x == 15
  | _ => false

/-- The instructions that store to memory (20_memory R52, the table). -/
def storesToMemory : Instr → Bool
  | .call _ | .ldB _ | .ldMemVx _ | .drw _ _ _ | .cls => true
  | _ => false

/-- The operation is a RESET, or a LOAD that the machine performs on `s` (60 R178: "RESET ... or a successful LOAD"). -/
def clearsFailure (op : HostOp) (s : State) : Prop :=
  op = .reset ∨ ((∃ p, op = .load (some p)) ∧ (applyOp op s).2 = .ok)

/-- The word fails to decode, family by family (30_encoding R77, the table; the family is `w` div 4096). -/
def illegalByFamily (w : Word) : Prop :=
  (w.toNat / 4096 = 0x0 ∧ w.toNat ≠ 0x00E0 ∧ w.toNat ≠ 0x00EE) ∨
  (w.toNat / 4096 = 0x5 ∧ w.toNat % 16 ≠ 0) ∨
  (w.toNat / 4096 = 0x8 ∧ (w.toNat % 16 = 8 ∨ w.toNat % 16 = 9 ∨ w.toNat % 16 = 0xA ∨ w.toNat % 16 = 0xB ∨
    w.toNat % 16 = 0xC ∨ w.toNat % 16 = 0xD ∨ w.toNat % 16 = 0xF)) ∨
  (w.toNat / 4096 = 0x9 ∧ w.toNat % 16 ≠ 0) ∨
  (w.toNat / 4096 = 0xE ∧ w.toNat % 256 ≠ 0x9E ∧ w.toNat % 256 ≠ 0xA1) ∨
  (w.toNat / 4096 = 0xF ∧ w.toNat % 256 ∉ [0x07, 0x0A, 0x15, 0x18, 0x1E, 0x29, 0x33, 0x55, 0x65])

/-- Digit rows 0 to 7 of the font, as the spec prints them (20_memory R42). -/
def fontLow : List Byte :=
  [0xF0, 0x90, 0x90, 0x90, 0xF0, 0x20, 0x60, 0x20, 0x20, 0x70, 0xF0, 0x10, 0xF0, 0x80, 0xF0, 0xF0, 0x10, 0xF0, 0x10, 0xF0] ++
  [0x90, 0x90, 0xF0, 0x10, 0x10, 0xF0, 0x80, 0xF0, 0x10, 0xF0, 0xF0, 0x80, 0xF0, 0x90, 0xF0, 0xF0, 0x10, 0x20, 0x40, 0x40]

/-- Digit rows 8 to F of the font, as the spec prints them (20_memory R42). -/
def fontHigh : List Byte :=
  [0xF0, 0x90, 0xF0, 0x90, 0xF0, 0xF0, 0x90, 0xF0, 0x10, 0xF0, 0xF0, 0x90, 0xF0, 0x90, 0x90, 0xE0, 0x90, 0xE0, 0x90, 0xE0] ++
  [0xF0, 0x80, 0x80, 0x80, 0xF0, 0xE0, 0x90, 0x90, 0x90, 0xE0, 0xF0, 0x80, 0xF0, 0x80, 0xF0, 0xF0, 0x80, 0xF0, 0x80, 0x80]

end Sys2Proof.Claims

open Sys2Proof.Claims

/-! ## Reset, fetch, decode, the step -/

/-- R29, the table: every component after RESET. The glyph bytes are the spec's from general knowledge (its list G6). -/
def Obligations.ResetValues : Prop :=
  (∀ r, State.reset.reg r = 0) ∧ State.reset.i = 0 ∧ State.reset.dt = 0 ∧ State.reset.st = 0 ∧
    State.reset.pc = 0x200 ∧ State.reset.sp = 0xE00 ∧
    (∀ k, k < 80 → State.reset.readByte k = (fontLow ++ fontHigh).getD k 0) ∧
    (∀ a, 80 ≤ a → a < 4096 → State.reset.readByte a = 0) ∧
    (∀ k, k < 256 → Frame.byte State.reset.fbPrev k = 0) ∧ (∀ k, State.reset.keyDown k = false) ∧
    State.reset.shiftQuirk = true ∧ State.reset.loadStoreQuirk = true ∧ State.reset.fault = none

/-- R201: the first step after a bare RESET fails with `UnimplementedInstruction(0x0000)`. -/
def Obligations.BareStepAfterResetFails : Prop :=
  State.reset.pc = 0x200 ∧ fetchWord State.reset = 0x0000 ∧
    step State.reset = .next (failedWith (.unimplementedInstruction 0x0000) State.reset)

/-- R7: "a model should refuse a configuration that breaks one". A step refuses, with whatever refusal, exactly on an ill-formed
configuration, and the refusal is `illFormedConfig`. (The checks are R7's and the model's `widthsFit` and `sourceFixed`: log entries
2, 22.) -/
def Obligations.IllFormedConfigIsRefused : Prop :=
  ∀ s : State, ((∃ r, step s = .refused r) ↔ ¬ s.cfg.Wf) ∧ (¬ s.cfg.Wf → step s = .refused .illFormedConfig)

/-- R90 lines 1 to 8: a machine that holds no failure, at a `PC` that may be fetched, whose two bytes decode to an instruction,
steps as that instruction does on that state. (`exec` moves `PC` itself: log entry 9.) -/
def Obligations.StepRunsTheFetchedInstruction : Prop :=
  ∀ (s : State) (i : Instr), s.cfg.Wf → s.fault = none → (s.cfg.strictAlign = true → s.pc.toNat % 2 = 0) →
    s.pc.toNat + 2 ≤ s.cfg.memSize →
    decodeBytes [s.readByte s.pc.toNat, s.readByte (s.pc.toNat + 1)] = .ok (i, []) → step s = exec i s

/-- R90 lines 1 to 7, R173, R174, R179: what a step ends in before it executes anything, in the order of R179. That the failing
step changes nothing but `FAULT` is the spec's own choice (R176, D12, U1). That a fetch at `PC` = `MEM_SIZE` - 1 records `PC` (R50,
R90) and not `MEM_SIZE` (R171) is the model's choice between them (log entry 23). -/
def Obligations.FailuresBeforeExecution : Prop :=
  ∀ s : State, s.cfg.Wf →
    (∀ cause, s.fault = some cause → step s = .fault cause) ∧
    (s.fault = none → s.cfg.strictAlign = true → s.pc.toNat % 2 = 1 → step s = .next (failedWith (.misalignedPC s.pc) s)) ∧
    (s.fault = none → (s.cfg.strictAlign = true → s.pc.toNat % 2 = 0) → s.cfg.memSize < s.pc.toNat + 2 →
      step s = .next (failedWith (.memoryOutOfBounds .fetch s.pc.toNat) s)) ∧
    (s.fault = none → (s.cfg.strictAlign = true → s.pc.toNat % 2 = 0) → s.pc.toNat + 2 ≤ s.cfg.memSize →
      illegalByFamily (wordOfBytes (s.readByte s.pc.toNat) (s.readByte (s.pc.toNat + 1))) →
      step s = .next (failedWith
        (.unimplementedInstruction (wordOfBytes (s.readByte s.pc.toNat) (s.readByte (s.pc.toNat + 1)))) s))

/-- Words of every format, written out from R72 and R75 (and 95_test_vectors table H). -/
def Obligations.SpecWordsDecode : Prop :=
  decodeWord 0x00E0 = .ok .cls ∧ decodeWord 0x00EE = .ok .ret ∧ decodeWord 0x1ABC = .ok (.jp 0xABC) ∧
    decodeWord 0x332A = .ok (.seByte 3 0x2A) ∧ decodeWord 0x5AB0 = .ok (.seReg 10 11) ∧
    decodeWord 0x8AB4 = .ok (.addReg 10 11) ∧ decodeWord 0x8ABE = .ok (.shl 10 11) ∧
    decodeWord 0xD12F = .ok (.drw 1 2 15) ∧ decodeWord 0xEA9E = .ok (.skp 10) ∧ decodeWord 0xFA65 = .ok (.ldVxMem 10) ∧
    decodeWord 0x0000 = .error (.illegal 0x0000) ∧ decodeWord 0x8AB8 = .error (.illegal 0x8AB8) ∧
    decodeWord 0x5AB1 = .error (.illegal 0x5AB1) ∧ decodeWord 0xFA64 = .error (.illegal 0xFA64)

/-- Decode and encode agree: every instruction, every operand at every value, comes back from its own word and bytes. -/
def Obligations.DecodeOfEncode : Prop :=
  ∀ (i : Instr) (rest : List Byte),
    decodeWord (encode i) = .ok i ∧ decodeBytes (encodeBytes i ++ rest) = .ok (i, rest)

/-- The other direction: a word that decodes is the encoding of what it decodes to, so each instruction has one word. -/
def Obligations.EncodeOfDecode : Prop := ∀ (w : Word) (i : Instr), decodeWord w = .ok i → encode i = w

/-- R76: decoding is total, legal words are those that satisfy a row of R75's table, and no word satisfies two rows. -/
def Obligations.LegalWordsSatisfyOneRow : Prop :=
  ∀ w : Word, ((∃ i, decodeWord w = .ok i) ↔ (opcodeRows.filter (rowMatches w)).length = 1) ∧
    (decodeWord w = .error (.illegal w) ↔ (opcodeRows.filter (rowMatches w)).length = 0)

/-- R77: the illegal words, family by family. -/
def Obligations.IllegalWordsByFamily : Prop := ∀ w : Word, decodeWord w = .error (.illegal w) ↔ illegalByFamily w

/-- `withFetchWord`: after RESET, a word placed where the step fetches is the first instruction run (log entry 6). -/
def Obligations.PlacedWordRunsFirst : Prop :=
  ∀ (w : Nat) (i : Instr), decodeTableWord 16 w = some i →
    step (State.reset.withFetchWord 16 w) = exec i (State.reset.withFetchWord 16 w)

/-- R57, R44: a store to code is seen by the very next fetch. After Fx55 has stored `V[0]` and `V[1]` at `I`, a fetch there reads
`V[0] ++ V[1]`. -/
def Obligations.StoreToCodeIsFetched : Prop :=
  ∀ (x : Reg) (s : State), s.Inv → 1 ≤ x.val → s.i.toNat + x.val + 1 ≤ s.cfg.memSize →
    ∃ t, exec (.ldMemVx x) s = .next t ∧
      (fetchWord { t with pc := s.i }).toNat = 256 * (s.reg 0).toNat + (s.reg 1).toNat

/-! ## Control transfer -/

/-- R95, R101: the two jumps write `PC` and nothing else. That 1nnn jumps is the spec's from general knowledge (G2). -/
def Obligations.JumpsReachTheirTargets : Prop :=
  ∀ (nnn : Addr12) (s : State),
    (∃ t, exec (.jp nnn) s = .next t ∧ t.pc.toNat = nnn.toNat ∧ OnlyPc s t) ∧
    (∃ t, exec (.jpV0 nnn) s = .next t ∧ t.pc.toNat = nnn.toNat + (s.reg 0).toNat ∧ OnlyPc s t)

/-- R97, R98, R99, R100: the four register skips. Their conditions are the spec's from general knowledge (G2). -/
def Obligations.ConditionalSkips : Prop :=
  ∀ (x y : Reg) (kk : Byte) (s : State),
    (∃ t, exec (.seByte x kk) s = .next t ∧ OnlyPc s t ∧ t.pc = if s.reg x = kk then s.pc + 4 else s.pc + 2) ∧
    (∃ t, exec (.sneByte x kk) s = .next t ∧ OnlyPc s t ∧ t.pc = if s.reg x ≠ kk then s.pc + 4 else s.pc + 2) ∧
    (∃ t, exec (.seReg x y) s = .next t ∧ OnlyPc s t ∧ t.pc = if s.reg x = s.reg y then s.pc + 4 else s.pc + 2) ∧
    (∃ t, exec (.sneReg x y) s = .next t ∧ OnlyPc s t ∧ t.pc = if s.reg x ≠ s.reg y then s.pc + 4 else s.pc + 2)

/-- R96: CALL on a full stack fails and writes nothing; else it pushes `pc0` + 2, high byte at the lower address, and jumps. The
stored bytes are the two at `SP` - 2, the new `SP`. -/
def Obligations.CallPushesAndJumps : Prop :=
  ∀ (nnn : Addr12) (s : State), s.Inv →
    (s.sp.toNat = s.cfg.stackLimit → exec (.call nnn) s = .next (failedWith (.stackBounds .onCall) s)) ∧
    (s.sp.toNat ≠ s.cfg.stackLimit → ∃ t, exec (.call nnn) s = .next t ∧
      t.pc.toNat = nnn.toNat ∧ t.sp.toNat = s.sp.toNat - 2 ∧
      (t.readByte (s.sp.toNat - 2)).toNat = (s.pc + 2).toNat / 256 ∧
      (t.readByte (s.sp.toNat - 1)).toNat = (s.pc + 2).toNat % 256 ∧
      SameMemoryOutside (s.sp.toNat - 2) 2 s t ∧ t = { s with pc := t.pc, sp := t.sp, mem := t.mem })

/-- R94: RET on an empty stack fails; else `PC` takes the two bytes at `SP`, unchecked, and memory is unchanged. -/
def Obligations.ReturnPopsItsTarget : Prop :=
  ∀ s : State, s.Inv →
    (s.sp.toNat = s.cfg.stackBase → exec .ret s = .next (failedWith (.stackBounds .onReturn) s)) ∧
    (s.sp.toNat ≠ s.cfg.stackBase → ∃ t, exec .ret s = .next t ∧
      t.pc.toNat = 256 * (s.readByte s.sp.toNat).toNat + (s.readByte (s.sp.toNat + 1)).toNat ∧
      t.sp.toNat = s.sp.toNat + 2 ∧ SameMemory s t ∧ t = { s with pc := t.pc, sp := t.sp })

/-- R96, R94 (the source's round trip): a CALL and a RET come back to the instruction after the CALL with `SP` as it was. -/
def Obligations.CallThenReturn : Prop :=
  ∀ (nnn : Addr12) (s : State), s.Inv → s.sp.toNat ≠ s.cfg.stackLimit →
    ∃ t u, exec (.call nnn) s = .next t ∧ exec .ret t = .next u ∧ u.pc = s.pc + 2 ∧ u.sp = s.sp

/-! ## Registers, arithmetic, logic, shift, random -/

/-- R110, R112, R164: the loads of a register. Their meanings are the spec's from general knowledge (G3, G5). -/
def Obligations.RegisterLoads : Prop :=
  ∀ (x y : Reg) (kk : Byte) (s : State),
    (∃ t, exec (.ldByte x kk) s = .next t ∧ t.reg x = kk ∧ OnlyRegsAndPc [x] s t ∧ t.pc = s.pc + 2) ∧
    (∃ t, exec (.ldReg x y) s = .next t ∧ t.reg x = s.reg y ∧ OnlyRegsAndPc [x] s t ∧ t.pc = s.pc + 2) ∧
    (∃ t, exec (.ldVxDt x) s = .next t ∧ t.reg x = s.dt ∧ OnlyRegsAndPc [x] s t ∧ t.pc = s.pc + 2)

/-- R111: 7xkk adds modulo 256 and writes no flag. Its meaning is the spec's from general knowledge (G3). -/
def Obligations.AddImmediateWraps : Prop :=
  ∀ (x : Reg) (kk : Byte) (s : State),
    ∃ t, exec (.addByte x kk) s = .next t ∧ (t.reg x).toNat = ((s.reg x).toNat + kk.toNat) % 256 ∧
      OnlyRegsAndPc [x] s t ∧ t.pc = s.pc + 2

/-- R113, R114, R115: the logic instructions, bit by bit; they write no flag. Their meanings are the spec's from general
knowledge (G3). -/
def Obligations.LogicActsBitwise : Prop :=
  ∀ (x y : Reg) (s : State),
    (∃ t, exec (.orReg x y) s = .next t ∧
      (∀ k, (t.reg x).getLsbD k = ((s.reg x).getLsbD k || (s.reg y).getLsbD k)) ∧
      OnlyRegsAndPc [x] s t ∧ t.pc = s.pc + 2) ∧
    (∃ t, exec (.andReg x y) s = .next t ∧
      (∀ k, (t.reg x).getLsbD k = ((s.reg x).getLsbD k && (s.reg y).getLsbD k)) ∧
      OnlyRegsAndPc [x] s t ∧ t.pc = s.pc + 2) ∧
    (∃ t, exec (.xorReg x y) s = .next t ∧
      (∀ k, (t.reg x).getLsbD k = ((s.reg x).getLsbD k ^^ (s.reg y).getLsbD k)) ∧
      OnlyRegsAndPc [x] s t ∧ t.pc = s.pc + 2)

/-- R116 with R123: the sum modulo 256, then the carry in VF; with `x` = 15 the sum is lost and VF holds the carry. -/
def Obligations.AddSetsCarry : Prop :=
  ∀ (x y : Reg) (s : State), ∃ t, exec (.addReg x y) s = .next t ∧
    (x ≠ 15 → (t.reg x).toNat = ((s.reg x).toNat + (s.reg y).toNat) % 256) ∧
    (t.reg 15).toNat = (if (s.reg x).toNat + (s.reg y).toNat > 255 then 1 else 0) ∧
    OnlyRegsAndPc [x, 15] s t ∧ t.pc = s.pc + 2

/-- R117, R119 with R123: the two subtractions modulo 256, then "not borrow" in VF. Which operand is the minuend is the spec's
from general knowledge (G3). -/
def Obligations.SubtractionsSetNotBorrow : Prop :=
  ∀ (x y : Reg) (s : State),
    (∃ t, exec (.sub x y) s = .next t ∧
      (x ≠ 15 → (t.reg x).toNat = ((s.reg x).toNat + 256 - (s.reg y).toNat) % 256) ∧
      (t.reg 15).toNat = (if (s.reg y).toNat ≤ (s.reg x).toNat then 1 else 0) ∧
      OnlyRegsAndPc [x, 15] s t ∧ t.pc = s.pc + 2) ∧
    (∃ t, exec (.subn x y) s = .next t ∧
      (x ≠ 15 → (t.reg x).toNat = ((s.reg y).toNat + 256 - (s.reg x).toNat) % 256) ∧
      (t.reg 15).toNat = (if (s.reg x).toNat ≤ (s.reg y).toNat then 1 else 0) ∧
      OnlyRegsAndPc [x, 15] s t ∧ t.pc = s.pc + 2)

/-- R118, R120 with R19 and R123: the shifts of the source `SHIFT_QUIRK` selects, then the bit shifted out in VF. -/
def Obligations.ShiftsFollowTheQuirk : Prop :=
  ∀ (x y : Reg) (s : State) (source : Nat), source = (if s.shiftQuirk then (s.reg x).toNat else (s.reg y).toNat) →
    (∃ t, exec (.shr x y) s = .next t ∧ (x ≠ 15 → (t.reg x).toNat = source / 2) ∧ (t.reg 15).toNat = source % 2 ∧
      OnlyRegsAndPc [x, 15] s t ∧ t.pc = s.pc + 2) ∧
    (∃ t, exec (.shl x y) s = .next t ∧ (x ≠ 15 → (t.reg x).toNat = 2 * source % 256) ∧
      (t.reg 15).toNat = source / 128 ∧ OnlyRegsAndPc [x, 15] s t ∧ t.pc = s.pc + 2)

/-- R124: one register as both operands. -/
def Obligations.SameRegisterTwice : Prop :=
  ∀ (x : Reg) (s : State),
    exec (.ldReg x x) s = .next s.advance ∧ exec (.orReg x x) s = .next s.advance ∧
    exec (.andReg x x) s = .next s.advance ∧
    (∃ t, exec (.xorReg x x) s = .next t ∧ t.reg x = 0) ∧
    (∃ t, exec (.addReg x x) s = .next t ∧ (x ≠ 15 → (t.reg x).toNat = 2 * (s.reg x).toNat % 256) ∧
      (t.reg 15).toNat = (if 128 ≤ (s.reg x).toNat then 1 else 0)) ∧
    (∃ t, exec (.sub x x) s = .next t ∧ (x ≠ 15 → t.reg x = 0) ∧ t.reg 15 = 1) ∧
    (∃ t, exec (.subn x x) s = .next t ∧ (x ≠ 15 → t.reg x = 0) ∧ t.reg 15 = 1) ∧
    (∀ q : Bool, ∃ t, exec (.shr x x) s = .next t ∧ exec (.shr x x) { s with shiftQuirk := q } = .next { t with shiftQuirk := q }) ∧
    (∀ q : Bool, ∃ t, exec (.shl x x) s = .next t ∧ exec (.shl x x) { s with shiftQuirk := q } = .next { t with shiftQuirk := q })

/-- R121, R126: one byte is drawn, whatever it is, and `V[x]` takes its bits under the mask. The drawn byte is the free value
`Config.randomByte`, and no value of it or of the draw counter is used: it holds for every one (log entries 4, 5). -/
def Obligations.RandomByteIsMasked : Prop :=
  ∀ (x : Reg) (kk : Byte) (s : State), ∃ t, exec (.rnd x kk) s = .next t ∧
    (∀ k, (t.reg x).getLsbD k = ((Config.randomByte s.draws).getLsbD k && kk.getLsbD k)) ∧
    t.draws = s.draws + 1 ∧ t = { s with v := t.v, pc := t.pc, draws := t.draws } ∧ SameRegsBut [x] s t ∧
    SameMemory s t ∧ t.pc = s.pc + 2

/-! ## The index register and memory -/

/-- R130, R131 with R137: loading and adding to `I`, modulo 65536, no flag. Their meanings are the spec's from general
knowledge (G4). -/
def Obligations.IndexLoadsAndAdds : Prop :=
  ∀ (x : Reg) (nnn : Addr12) (s : State),
    (∃ t, exec (.ldI nnn) s = .next t ∧ t.i.toNat = nnn.toNat ∧ t = { s with i := t.i, pc := t.pc } ∧ SameMemory s t ∧
      t.pc = s.pc + 2) ∧
    (∃ t, exec (.addI x) s = .next t ∧ t.i.toNat = (s.i.toNat + (s.reg x).toNat) % 65536 ∧
      t = { s with i := t.i, pc := t.pc } ∧ SameMemory s t ∧ t.pc = s.pc + 2)

/-- R132: the glyph address of a digit; above 15 the instruction fails. Its meaning is the spec's from general knowledge (G4).
-/
def Obligations.FontAddressOfDigit : Prop :=
  ∀ (x : Reg) (s : State), s.cfg.Wf →
    (15 < (s.reg x).toNat → exec (.ldF x) s = .next (failedWith (.operandOutOfRange .font (s.reg x)) s)) ∧
    ((s.reg x).toNat ≤ 15 → ∃ t, exec (.ldF x) s = .next t ∧ t.i.toNat = s.cfg.fontBase + 5 * (s.reg x).toNat ∧
      t = { s with i := t.i, pc := t.pc } ∧ SameMemory s t ∧ t.pc = s.pc + 2)

/-- R133 with R50: three decimal digits at `I`, or a failure that writes none. -/
def Obligations.BcdStoresThreeDigits : Prop :=
  ∀ (x : Reg) (s : State), s.Inv →
    (s.cfg.memSize < s.i.toNat + 3 → exec (.ldB x) s = .next (failedWith (dataOut s) s)) ∧
    (s.i.toNat + 3 ≤ s.cfg.memSize → ∃ t, exec (.ldB x) s = .next t ∧
      (t.readByte s.i.toNat).toNat = (s.reg x).toNat / 100 ∧
      (t.readByte (s.i.toNat + 1)).toNat = (s.reg x).toNat / 10 % 10 ∧
      (t.readByte (s.i.toNat + 2)).toNat = (s.reg x).toNat % 10 ∧
      SameMemoryOutside s.i.toNat 3 s t ∧ t = { s with mem := t.mem, pc := t.pc } ∧ t.pc = s.pc + 2)

/-- R134 with R50, R20: `V[0]`..`V[x]` stored at `I`, all or nothing; `I` by `LOAD_STORE_QUIRK`. -/
def Obligations.BulkStoreCopiesRegisters : Prop :=
  ∀ (x : Reg) (s : State), s.Inv →
    (s.cfg.memSize < s.i.toNat + x.val + 1 → exec (.ldMemVx x) s = .next (failedWith (dataOut s) s)) ∧
    (s.i.toNat + x.val + 1 ≤ s.cfg.memSize → ∃ t, exec (.ldMemVx x) s = .next t ∧
      (∀ r : Reg, r.val ≤ x.val → t.readByte (s.i.toNat + r.val) = s.reg r) ∧
      SameMemoryOutside s.i.toNat (x.val + 1) s t ∧
      t.i.toNat = (if s.loadStoreQuirk then s.i.toNat else (s.i.toNat + x.val + 1) % 65536) ∧
      t = { s with mem := t.mem, i := t.i, pc := t.pc } ∧ t.pc = s.pc + 2)

/-- R135 with R50, R20: `V[0]`..`V[x]` loaded from `I`, all or nothing; the registers above `x` and memory are unchanged. -/
def Obligations.BulkLoadCopiesMemory : Prop :=
  ∀ (x : Reg) (s : State),
    (s.cfg.memSize < s.i.toNat + x.val + 1 → exec (.ldVxMem x) s = .next (failedWith (dataOut s) s)) ∧
    (s.i.toNat + x.val + 1 ≤ s.cfg.memSize → ∃ t, exec (.ldVxMem x) s = .next t ∧
      (∀ r : Reg, r.val ≤ x.val → t.reg r = s.readByte (s.i.toNat + r.val)) ∧
      (∀ r : Reg, x.val < r.val → t.reg r = s.reg r) ∧
      t.i.toNat = (if s.loadStoreQuirk then s.i.toNat else (s.i.toNat + x.val + 1) % 65536) ∧
      t = { s with v := t.v, i := t.i, pc := t.pc } ∧ SameMemory s t ∧ t.pc = s.pc + 2)

/-- R134, R135: with `LOAD_STORE_QUIRK` true, what Fx55 stored Fx65 brings back, whatever the registers hold in between. -/
def Obligations.BulkStoreThenLoad : Prop :=
  ∀ (x : Reg) (s : State) (w : Vector Byte 16), s.Inv → s.loadStoreQuirk = true → s.i.toNat + x.val + 1 ≤ s.cfg.memSize →
    ∃ t u, exec (.ldMemVx x) s = .next t ∧ exec (.ldVxMem x) { t with v := w } = .next u ∧
      (∀ r : Reg, r.val ≤ x.val → u.reg r = s.reg r) ∧ (∀ r : Reg, x.val < r.val → u.reg r = w.get r)

/-! ## The display -/

/-- R143: CLS snapshots `FBauth`, clears it, and writes neither `FBdisp` nor a register. (`CLS_UPDATES_DISPLAY` false, the
default of decision D7; the other value has the statement `ClearUpdatingTheDisplay`.) -/
def Obligations.ClearZeroesAuthoritativeFrame : Prop :=
  ∀ s : State, s.Inv → s.cfg.clsUpdatesDisplay = false → ∃ t, exec .cls s = .next t ∧
    (∀ k, k < 256 → t.readByte (s.cfg.fbAuthBase + k) = 0 ∧ Frame.byte t.fbPrev k = s.readByte (s.cfg.fbAuthBase + k)) ∧
    (∀ k, k < 256 → t.readByte (s.cfg.fbDispBase + k) = s.readByte (s.cfg.fbDispBase + k)) ∧
    SameMemoryOutside s.cfg.fbAuthBase 256 s t ∧ t = { s with mem := t.mem, fbPrev := t.fbPrev, pc := t.pc } ∧
    t.pc = s.pc + 2

/-- Decision D7, the alternative set aside: with `CLS_UPDATES_DISPLAY` true CLS does as R143 says and stores in `FBdisp` the OR of
`FBprev` and `FBauth`, which gives the authoritative frame before the clear (log entry 15). -/
def Obligations.ClearUpdatingTheDisplay : Prop :=
  ∀ s : State, s.Inv → s.cfg.clsUpdatesDisplay = true → ∃ t, exec .cls s = .next t ∧
    (∀ k, k < 256 → t.readByte (s.cfg.fbAuthBase + k) = 0 ∧ Frame.byte t.fbPrev k = s.readByte (s.cfg.fbAuthBase + k) ∧
      t.readByte (s.cfg.fbDispBase + k) = s.readByte (s.cfg.fbAuthBase + k)) ∧
    (∀ a, (a < s.cfg.fbAuthBase ∨ s.cfg.fbAuthBase + 256 ≤ a) → (a < s.cfg.fbDispBase ∨ s.cfg.fbDispBase + 256 ≤ a) →
      t.readByte a = s.readByte a) ∧
    t = { s with mem := t.mem, fbPrev := t.fbPrev, pc := t.pc } ∧ t.pc = s.pc + 2

/-- R144 to R147, R149: DRW fails whole when its sprite is not in memory; else each pixel under a set sprite bit is inverted,
at wrapped coordinates; VF says whether one of them was lit; `FBprev` is the old frame; `FBdisp` is the OR of old and new. The
stored bytes are those of the two frames. Which registers give the origin and which bit is leftmost is the spec's from general
knowledge (G7). -/
def Obligations.DrawInvertsSpritePixels : Prop :=
  ∀ (x y : Reg) (n : Nibble) (s : State), s.Inv →
    (n ≠ 0 → s.cfg.memSize < s.i.toNat + n.toNat → exec (.drw x y n) s = .next (failedWith (dataOut s) s)) ∧
    (n = 0 ∨ s.i.toNat + n.toNat ≤ s.cfg.memSize → ∃ t, exec (.drw x y n) s = .next t ∧
      (∀ c r, c < 64 → r < 32 → (litAuth t c r ↔ ¬ (litAuth s c r ↔ spriteOn s x y n c r))) ∧
      ((∃ c r, c < 64 ∧ r < 32 ∧ spriteOn s x y n c r ∧ litAuth s c r) → t.reg 15 = 1) ∧
      ((¬ ∃ c r, c < 64 ∧ r < 32 ∧ spriteOn s x y n c r ∧ litAuth s c r) → t.reg 15 = 0) ∧
      (∀ k, k < 256 → Frame.byte t.fbPrev k = s.readByte (s.cfg.fbAuthBase + k)) ∧
      (∀ k, k < 256 → t.readByte (s.cfg.fbDispBase + k) =
        s.readByte (s.cfg.fbAuthBase + k) ||| t.readByte (s.cfg.fbAuthBase + k)) ∧
      (∀ a, (a < s.cfg.fbAuthBase ∨ s.cfg.fbAuthBase + 256 ≤ a) → (a < s.cfg.fbDispBase ∨ s.cfg.fbDispBase + 256 ≤ a) →
        t.readByte a = s.readByte a) ∧
      SameRegsBut [15] s t ∧ t = { s with v := t.v, mem := t.mem, fbPrev := t.fbPrev, pc := t.pc } ∧ t.pc = s.pc + 2)

/-- R148: DRW of height 0 never fails, whatever `I` holds; it settles the display frame to the authoritative one. -/
def Obligations.DrawOfHeightZeroSettles : Prop :=
  ∀ (x y : Reg) (s : State), s.Inv → ∃ t, exec (.drw x y 0) s = .next t ∧ t.fault = s.fault ∧ t.reg 15 = 0 ∧
    ∀ k, k < 256 → t.readByte (s.cfg.fbAuthBase + k) = s.readByte (s.cfg.fbAuthBase + k) ∧
      t.readByte (s.cfg.fbDispBase + k) = s.readByte (s.cfg.fbAuthBase + k) ∧
      Frame.byte t.fbPrev k = s.readByte (s.cfg.fbAuthBase + k)

/-- R145, R144 (the source's test): a sprite outside the frames drawn twice at one place restores the authoritative frame; on an
empty screen the first draw leaves VF 0 and the second leaves it 1 iff the sprite is not blank. -/
def Obligations.DrawTwiceRestores : Prop :=
  ∀ (x y : Reg) (n : Nibble) (s : State), s.Inv → x ≠ 15 → y ≠ 15 → s.i.toNat + n.toNat ≤ s.cfg.memSize →
    (s.i.toNat + n.toNat ≤ s.cfg.fbAuthBase ∨ s.cfg.fbAuthBase + 256 ≤ s.i.toNat) →
    (s.i.toNat + n.toNat ≤ s.cfg.fbDispBase ∨ s.cfg.fbDispBase + 256 ≤ s.i.toNat) →
    ∃ t u, exec (.drw x y n) s = .next t ∧ exec (.drw x y n) t = .next u ∧
      (∀ k, k < 256 → u.readByte (s.cfg.fbAuthBase + k) = s.readByte (s.cfg.fbAuthBase + k)) ∧
      ((∀ k, k < 256 → s.readByte (s.cfg.fbAuthBase + k) = 0) →
        t.reg 15 = 0 ∧ (u.reg 15 = 1 ↔ ∃ k, k < n.toNat ∧ s.readByte (s.i.toNat + k) ≠ 0))

/-! ## Keypad and timers -/

/-- R160, R161: the keypad skips; a key number above 15 fails. Their meanings are the spec's from general knowledge (G5). -/
def Obligations.KeypadSkips : Prop :=
  ∀ (x : Reg) (s : State),
    (15 < (s.reg x).toNat →
      exec (.skp x) s = .next (failedWith (.operandOutOfRange .key (s.reg x)) s) ∧
      exec (.sknp x) s = .next (failedWith (.operandOutOfRange .key (s.reg x)) s)) ∧
    (∀ k : Reg, k.val = (s.reg x).toNat →
      (∃ t, exec (.skp x) s = .next t ∧ OnlyPc s t ∧ t.pc = if s.keyDown k = true then s.pc + 4 else s.pc + 2) ∧
      (∃ t, exec (.sknp x) s = .next t ∧ OnlyPc s t ∧ t.pc = if s.keyDown k = true then s.pc + 2 else s.pc + 4))

/-- R162: Fx0A in the default mode changes nothing at all while no key is down, and else stores the least pressed key. That it
takes any key and stores its number is the spec's (D15, G5). -/
def Obligations.WaitForAnyKey : Prop :=
  ∀ (x : Reg) (s : State), s.cfg.keyWaitMode = .anyKeyLowest →
    ((∀ k, s.keyDown k = false) → exec (.ldVxK x) s = .next s) ∧
    (∀ k : Reg, s.keyDown k = true → (∀ j : Reg, j < k → s.keyDown j = false) →
      ∃ t, exec (.ldVxK x) s = .next t ∧ (t.reg x).toNat = k.val ∧ OnlyRegsAndPc [x] s t ∧ t.pc = s.pc + 2)

/-- R163: Fx0A in the alternative mode waits for key `V[x]` and writes no register. -/
def Obligations.WaitForDesignatedKey : Prop :=
  ∀ (x : Reg) (s : State), s.cfg.keyWaitMode = .designatedVx →
    (15 < (s.reg x).toNat → exec (.ldVxK x) s = .next (failedWith (.operandOutOfRange .key (s.reg x)) s)) ∧
    (∀ k : Reg, k.val = (s.reg x).toNat →
      ∃ t, exec (.ldVxK x) s = .next t ∧ OnlyPc s t ∧ t.pc = if s.keyDown k = true then s.pc + 2 else s.pc)

/-- R165, R166: loading the timers. Their meanings are the spec's from general knowledge (G5). -/
def Obligations.TimerLoads : Prop :=
  ∀ (x : Reg) (s : State),
    (∃ t, exec (.ldDtVx x) s = .next t ∧ t.dt = s.reg x ∧ t = { s with dt := t.dt, pc := t.pc } ∧ SameMemory s t ∧
      t.pc = s.pc + 2) ∧
    (∃ t, exec (.ldStVx x) s = .next t ∧ t.st = s.reg x ∧ t = { s with st := t.st, pc := t.pc } ∧ SameMemory s t ∧
      t.pc = s.pc + 2)

/-! ## Whole-machine rules, over all instructions -/

/-- R176: a failing step leaves every component as before it but `FAULT`, `PC` among them. The source calls the state after a
failure undefined; this one is the spec's own choice (D12, U1; log entry 3). -/
def Obligations.FailuresArePrecise : Prop :=
  ∀ (s t : State) (cause : Fault), step s = .next t → t.fault = some cause → t = failedWith cause s

/-- R171, R179: which instruction fails, when, and with which cause; no other can fail. -/
def Obligations.FailuresByInstruction : Prop :=
  ∀ (i : Instr) (s : State) (cause : Fault), s.Inv → s.fault = none →
    (exec i s = .next (failedWith cause s) ↔ raises s cause i)

/-- R93: `PC` after every instruction. -/
def Obligations.PcAfterEachInstruction : Prop :=
  ∀ (i : Instr) (s t : State), s.fault = none → exec i s = .next t →
    (t.fault = none → pcAfter s t i) ∧ (t.fault ≠ none → t.pc = s.pc)

/-- R52: an instruction not in the table's storing rows leaves every byte of memory as it was. -/
def Obligations.OnlyStoringInstructionsWriteMemory : Prop :=
  ∀ (i : Instr) (s t : State), storesToMemory i = false → exec i s = .next t → SameMemory s t ∧ t.mem = s.mem

/-- R17, R18: no instruction writes a key or a quirk flag. Nor the configuration, which the spec does not count as state (10_state
R26(b)): that clause is the model's, which carries it in a field (log entry 1). -/
def Obligations.NoInstructionWritesHostState : Prop :=
  ∀ (i : Instr) (s t : State), exec i s = .next t →
    t.key = s.key ∧ t.shiftQuirk = s.shiftQuirk ∧ t.loadStoreQuirk = s.loadStoreQuirk ∧ t.cfg = s.cfg

/-- R12, R14, R15, R16, R24: which instructions write `I`, `SP`, `DT`, `ST` and `FBprev`. -/
def Obligations.SpecialRegistersHaveTheirWriters : Prop :=
  ∀ (i : Instr) (s t : State), exec i s = .next t →
    (t.i = s.i ∨ (∃ nnn, i = .ldI nnn) ∨ (∃ x, i = .addI x ∨ i = .ldF x) ∨
      (s.loadStoreQuirk = false ∧ ∃ x, i = .ldMemVx x ∨ i = .ldVxMem x)) ∧
    (t.sp = s.sp ∨ (∃ nnn, i = .call nnn) ∨ i = .ret) ∧
    (t.dt = s.dt ∨ ∃ x, i = .ldDtVx x) ∧ (t.st = s.st ∨ ∃ x, i = .ldStVx x) ∧
    (t.fbPrev = s.fbPrev ∨ i = .cls ∨ ∃ x y n, i = .drw x y n)

/-- R30: VF after any instruction that succeeds. A flag write stores 0 or 1; every other instruction leaves VF unchanged, except
one that writes `V[15]` as an ordinary register. -/
def Obligations.FlagIsWrittenByFlagInstructionsOnly : Prop :=
  ∀ (i : Instr) (s t : State), s.fault = none → exec i s = .next t → t.fault = none →
    (writesFlag i = true → t.reg 15 = 0 ∨ t.reg 15 = 1) ∧
    (writesFlag i = false → writesVfAsRegister i = false → t.reg 15 = s.reg 15)

/-- R150: `FBprev` influences nothing: two machines that differ in it alone step alike, and differ in it alone afterwards. -/
def Obligations.PreviousFrameIsNeverRead : Prop :=
  ∀ (s t : State) (f : Frame), step s = .next t → ∃ g, step { s with fbPrev := f } = .next { t with fbPrev := g }

/-- R18, R92: `SHIFT_QUIRK` changes nothing but 8xy6 and 8xyE, and `LOAD_STORE_QUIRK` nothing but Fx55 and Fx65. -/
def Obligations.QuirksSelectTheirFamilies : Prop :=
  ∀ (i : Instr) (s t : State) (q : Bool), exec i s = .next t →
    ((∀ x y, i ≠ .shr x y ∧ i ≠ .shl x y) → exec i { s with shiftQuirk := q } = .next { t with shiftQuirk := q }) ∧
    ((∀ x, i ≠ .ldMemVx x ∧ i ≠ .ldVxMem x) →
      exec i { s with loadStoreQuirk := q } = .next { t with loadStoreQuirk := q })

/-! ## Invariants -/

/-- The invariant holds after RESET, in the spec's configuration and in every well-formed one (R14, R29, R40). -/
def Obligations.ResetMeetsInvariant : Prop :=
  State.reset.Inv ∧ ∀ (c : Config) (draws : Nat), c.Wf → (State.resetOf c draws).Inv

/-- Every step keeps the invariant, from every state that meets it: the memory in the model's canonical form inside `MEM_SIZE`
(R40, R50) and `SP` even and within the stack's bounds (R14). -/
def Obligations.StepKeepsInvariant : Prop := ∀ s t : State, s.Inv → step s = .next t → t.Inv

/-- Every interleaving of the host's operations, steps among them, keeps the invariant (00_scope R3, 20_memory R55). -/
def Obligations.HostOpsKeepInvariant : Prop := ∀ (ops : List HostOp) (s : State), s.Inv → (runOps ops s).Inv

/-! ## The host's ports -/

/-- R200: RESET gives every component its reset value, whatever the state was. The configuration stays (00_scope R6). The
glyph bytes are the spec's from general knowledge (G6). -/
def Obligations.ResetPortClearsEverything : Prop :=
  ∀ s : State, s.cfg.Wf → ∃ t, applyOp .reset s = (t, .ok) ∧
    (∀ r, t.reg r = 0) ∧ t.i = 0 ∧ t.dt = 0 ∧ t.st = 0 ∧ t.pc.toNat = s.cfg.progBase ∧ t.sp.toNat = s.cfg.stackBase ∧
    (∀ k, k < 80 → t.readByte (s.cfg.fontBase + k) = (fontLow ++ fontHigh).getD k 0) ∧
    (∀ a, a < s.cfg.memSize → (a < s.cfg.fontBase ∨ s.cfg.fontBase + 80 ≤ a) → t.readByte a = 0) ∧
    (∀ k, k < 256 → Frame.byte t.fbPrev k = 0) ∧ (∀ k, t.keyDown k = false) ∧
    t.shiftQuirk = s.cfg.defaultShiftQuirk ∧ t.loadStoreQuirk = s.cfg.defaultLoadStoreQuirk ∧ t.fault = none ∧
    t.cfg = s.cfg

/-- R204, R205, R206: LOAD copies the program, sets `PC`, `SP`, the quirk flags and `FAULT`, and changes nothing else; a program
longer than `STACK_LIMIT` - `PROG_BASE` bytes, or an unknown title, is refused with no change. -/
def Obligations.LoadPortPlacesTheProgram : Prop :=
  ∀ (p : Program) (s : State), s.Inv →
    applyOp (.load none) s = (s, .rejected .unknownProgram) ∧
    (s.cfg.stackLimit - s.cfg.progBase < p.bytes.length →
      applyOp (.load (some p)) s = (s, .rejected (.programTooLarge p.bytes.length))) ∧
    (p.bytes.length ≤ s.cfg.stackLimit - s.cfg.progBase → ∃ t, applyOp (.load (some p)) s = (t, .ok) ∧
      (∀ k, k < p.bytes.length → t.readByte (s.cfg.progBase + k) = p.bytes.getD k 0) ∧
      SameMemoryOutside s.cfg.progBase p.bytes.length s t ∧
      t.pc.toNat = s.cfg.progBase ∧ t.sp.toNat = s.cfg.stackBase ∧ t.shiftQuirk = p.shiftQuirk ∧
      t.loadStoreQuirk = p.loadStoreQuirk ∧ t.fault = none ∧
      t = { s with
        mem := t.mem, pc := t.pc, sp := t.sp, shiftQuirk := t.shiftQuirk, loadStoreQuirk := t.loadStoreQuirk,
        fault := t.fault })

/-- R192: TICK decrements both timers, saturating at 0, and changes nothing else (the frames among it, R152). -/
def Obligations.TickSaturates : Prop :=
  ∀ s : State, ∃ t, applyOp .tick s = (t, .ok) ∧ t.dt.toNat = s.dt.toNat - 1 ∧ t.st.toNat = s.st.toNat - 1 ∧
    t = { s with dt := t.dt, st := t.st }

/-- R193: SETKEY sets one key's level and changes nothing else; an index above 15 is refused with no change. -/
def Obligations.SetKeySetsOneKey : Prop :=
  ∀ (index : Nat) (pressed : Bool) (s : State),
    (15 < index → applyOp (.setKey index pressed) s = (s, .rejected (.keyIndexOutOfRange index))) ∧
    (∀ k : Reg, k.val = index → ∃ t, applyOp (.setKey index pressed) s = (t, .ok) ∧ t.keyDown k = pressed ∧
      (∀ j : Reg, j ≠ k → t.keyDown j = s.keyDown j) ∧ t = { s with key := t.key })

/-- R194, R58, R189: the views return memory, the display frame with its length, and `ST`, and change nothing. The last of them is
a port that the spec adds (R189, decision D20). -/
def Obligations.ViewsReturnCurrentContents : Prop :=
  ∀ s : State,
    (∃ bytes, applyOp .memView s = (s, .memory bytes) ∧ bytes.length = s.cfg.memSize ∧
      ∀ a, a < s.cfg.memSize → bytes.getD a 0 = s.readByte a) ∧
    (∃ bytes, applyOp .dispView s = (s, .display bytes s.cfg.fbLen) ∧ bytes.length = 256 ∧ (s.cfg.Wf → s.cfg.fbLen = 256) ∧
      ∀ k, k < 256 → bytes.getD k 0 = s.readByte (s.cfg.fbDispBase + k)) ∧
    applyOp .stView s = (s, .sound s.st)

/-- R177: on a machine that holds a failure STEP changes nothing and returns the latched cause again; TICK and SETKEY still act,
and leave the failure. -/
def Obligations.FailedMachineUnderTheHost : Prop :=
  ∀ (s : State) (cause : Fault) (k : Reg) (pressed : Bool), s.cfg.Wf → s.fault = some cause →
    applyOp .step s = (s, .failed cause) ∧
    (∃ t, applyOp .tick s = (t, .ok) ∧ t.fault = some cause ∧ t.dt.toNat = s.dt.toNat - 1 ∧ t.st.toNat = s.st.toNat - 1) ∧
    (∃ t, applyOp (.setKey k.val pressed) s = (t, .ok) ∧ t.fault = some cause ∧ t.keyDown k = pressed)

/-- R178, R25: a RESET and a LOAD that is performed clear a latched failure, and every other operation leaves it as it is, a refused
LOAD among them. -/
def Obligations.OnlyResetAndLoadClearFailures : Prop :=
  ∀ (op : HostOp) (s : State) (cause : Fault), s.fault = some cause →
    (clearsFailure op s → (applyOp op s).1.fault = none) ∧
    (¬ clearsFailure op s → (applyOp op s).1.fault = some cause)

/-- R90 line 9, R191: the STEP port returns success exactly when the step leaves no failure, and the latched cause otherwise. -/
def Obligations.StepPortReportsTheOutcome : Prop :=
  ∀ s t : State, step s = .next t →
    (t.fault = none → applyOp .step s = (t, .success)) ∧
    (∀ cause, t.fault = some cause → applyOp .step s = (t, .failed cause) ∧ t = failedWith cause s)
end

