-- ==== Sys2Proof/Laws/Encoding.lean ====
section
/-!
SUPPORT. The fields of a word built from its fields, one lemma per format (30_encoding R71, R72), and each format under the masks
of R75.
-/

namespace Sys2Proof

open Sys2Proof.Machine

/-! ### A word as one number -/

theorem append4_toNat (a b c d : Nibble) :
    (a ++ b ++ c ++ d : Word).toNat = 4096 * a.toNat + 256 * b.toNat + 16 * c.toNat + d.toNat := by
  have ha := a.isLt
  have hb := b.isLt
  have hc := c.isLt
  have hd := d.isLt
  rw [BitVec.toNat_append, BitVec.toNat_append, BitVec.toNat_append, ← Nat.shiftLeft_add_eq_or_of_lt hd,
    ← Nat.shiftLeft_add_eq_or_of_lt hc, ← Nat.shiftLeft_add_eq_or_of_lt hb]
  simp only [Nat.shiftLeft_eq]
  omega

/-- Every word is its four nibbles (30_encoding R71). -/
theorem word_of_nibbles (w : Word) : (opOf w ++ xOf w ++ yOf w ++ nOf w : Word) = w := by
  have := w.isLt
  apply BitVec.eq_of_toNat_eq
  rw [append4_toNat]
  simp only [opOf, xOf, yOf, nOf, BitVec.extractLsb'_toNat, Nat.shiftRight_eq_div_pow]
  omega

/-! ### The fields of a word of four nibbles -/

@[simp] theorem opOf_append (a b c d : Nibble) : opOf (a ++ b ++ c ++ d) = a := by
  have ha := a.isLt
  have hb := b.isLt
  have hc := c.isLt
  have hd := d.isLt
  apply BitVec.eq_of_toNat_eq
  rw [opOf, BitVec.extractLsb'_toNat, append4_toNat, Nat.shiftRight_eq_div_pow]
  omega

@[simp] theorem xOf_append (a b c d : Nibble) : xOf (a ++ b ++ c ++ d) = b := by
  have hb := b.isLt
  have hc := c.isLt
  have hd := d.isLt
  apply BitVec.eq_of_toNat_eq
  rw [xOf, BitVec.extractLsb'_toNat, append4_toNat, Nat.shiftRight_eq_div_pow]
  omega

@[simp] theorem yOf_append (a b c d : Nibble) : yOf (a ++ b ++ c ++ d) = c := by
  have hc := c.isLt
  have hd := d.isLt
  apply BitVec.eq_of_toNat_eq
  rw [yOf, BitVec.extractLsb'_toNat, append4_toNat, Nat.shiftRight_eq_div_pow]
  omega

@[simp] theorem nOf_append (a b c d : Nibble) : nOf (a ++ b ++ c ++ d) = d := by
  have hd := d.isLt
  apply BitVec.eq_of_toNat_eq
  rw [nOf, BitVec.extractLsb'_toNat, append4_toNat, Nat.shiftRight_eq_div_pow]
  omega

/-! ### The immediates as nibbles -/

/-- `kk` = `y ++ n` (30_encoding R71). -/
theorem byte_of_nibbles (kk : Byte) : (kk.extractLsb' 4 4 ++ kk.extractLsb' 0 4 : Byte) = kk := by
  have := kk.isLt
  apply BitVec.eq_of_toNat_eq
  have hd := (kk.extractLsb' 0 4).isLt
  rw [BitVec.toNat_append, ← Nat.shiftLeft_add_eq_or_of_lt hd, Nat.shiftLeft_eq]
  simp only [BitVec.extractLsb'_toNat, Nat.shiftRight_eq_div_pow]
  omega

/-- `nnn` = `x ++ y ++ n` (30_encoding R71). -/
theorem addr_of_nibbles (nnn : Addr12) :
    (nnn.extractLsb' 8 4 ++ nnn.extractLsb' 4 4 ++ nnn.extractLsb' 0 4 : Addr12) = nnn := by
  have := nnn.isLt
  apply BitVec.eq_of_toNat_eq
  have hd := (nnn.extractLsb' 0 4).isLt
  have hc := (nnn.extractLsb' 4 4).isLt
  rw [BitVec.toNat_append, BitVec.toNat_append, ← Nat.shiftLeft_add_eq_or_of_lt hd, ← Nat.shiftLeft_add_eq_or_of_lt hc]
  simp only [BitVec.extractLsb'_toNat, Nat.shiftRight_eq_div_pow, Nat.shiftLeft_eq]
  omega

/-- The format `XKK` (and `X`) as four nibbles (30_encoding R72). -/
theorem xkk_nibbles (a b : Nibble) (kk : Byte) :
    (a ++ b ++ kk : Word) = a ++ b ++ kk.extractLsb' 4 4 ++ kk.extractLsb' 0 4 := by
  have hk := kk.isLt
  apply BitVec.eq_of_toNat_eq
  rw [append4_toNat, BitVec.toNat_append, BitVec.toNat_append, ← Nat.shiftLeft_add_eq_or_of_lt hk,
    ← Nat.shiftLeft_add_eq_or_of_lt b.isLt]
  simp only [BitVec.extractLsb'_toNat, Nat.shiftRight_eq_div_pow, Nat.shiftLeft_eq]
  omega

/-- The format `NNN` as four nibbles (30_encoding R72). -/
theorem nnn_nibbles (a : Nibble) (nnn : Addr12) :
    (a ++ nnn : Word) = a ++ nnn.extractLsb' 8 4 ++ nnn.extractLsb' 4 4 ++ nnn.extractLsb' 0 4 := by
  have hn := nnn.isLt
  apply BitVec.eq_of_toNat_eq
  rw [append4_toNat, BitVec.toNat_append, ← Nat.shiftLeft_add_eq_or_of_lt hn]
  simp only [BitVec.extractLsb'_toNat, Nat.shiftRight_eq_div_pow, Nat.shiftLeft_eq]
  omega

/-! ### Formats under the masks -/

/-- A conjunction of two words, nibble by nibble. -/
theorem and_nibbles (a b c d a' b' c' d' : Nibble) :
    ((a ++ b ++ c ++ d : Word) &&& (a' ++ b' ++ c' ++ d' : Word)) = (a &&& a') ++ (b &&& b') ++ (c &&& c') ++ (d &&& d') := by
  show (a ++ b ++ c ++ d : BitVec (4 + 4 + 4 + 4)) &&& (a' ++ b' ++ c' ++ d' : BitVec (4 + 4 + 4 + 4)) = _
  simp only [BitVec.and_append]

theorem and_mask_op (a b c d : Nibble) : (a ++ b ++ c ++ d : Word) &&& 0xF000#16 = a ++ 0#4 ++ 0#4 ++ 0#4 := by
  rw [show (0xF000#16 : Word) = BitVec.allOnes 4 ++ 0#4 ++ 0#4 ++ 0#4 from rfl, and_nibbles]
  simp only [BitVec.and_allOnes, BitVec.and_zero]

theorem and_mask_op_n (a b c d : Nibble) : (a ++ b ++ c ++ d : Word) &&& 0xF00F#16 = a ++ 0#4 ++ 0#4 ++ d := by
  rw [show (0xF00F#16 : Word) = BitVec.allOnes 4 ++ 0#4 ++ 0#4 ++ BitVec.allOnes 4 from rfl, and_nibbles]
  simp only [BitVec.and_allOnes, BitVec.and_zero]

theorem and_mask_op_kk (a b c d : Nibble) : (a ++ b ++ c ++ d : Word) &&& 0xF0FF#16 = a ++ 0#4 ++ c ++ d := by
  rw [show (0xF0FF#16 : Word) = BitVec.allOnes 4 ++ 0#4 ++ BitVec.allOnes 4 ++ BitVec.allOnes 4 from rfl, and_nibbles]
  simp only [BitVec.and_allOnes, BitVec.and_zero]

/-! ### Register numbers -/

@[simp] theorem regBits_toFin (r : Reg) : (regBits r).toFin = r := rfl

@[simp] theorem regBits_of_toFin (x : Nibble) : regBits x.toFin = x := rfl

end Sys2Proof
end

