-- ==== Sys2Proof/Laws/State.lean ====
section
/-!
SUPPORT. The small lemmas of the state's updates: one per field per update, true by rfl, so that no later proof unfolds a record
update; and what reading a register gives after writing one.
-/

namespace Sys2Proof.Machine

/-! ### `advance` -/

@[simp] theorem State.advance_v (s : State) : s.advance.v = s.v := rfl
@[simp] theorem State.advance_i (s : State) : s.advance.i = s.i := rfl
@[simp] theorem State.advance_pc (s : State) : s.advance.pc = s.pc + 2 := rfl
@[simp] theorem State.advance_sp (s : State) : s.advance.sp = s.sp := rfl
@[simp] theorem State.advance_dt (s : State) : s.advance.dt = s.dt := rfl
@[simp] theorem State.advance_st (s : State) : s.advance.st = s.st := rfl
@[simp] theorem State.advance_key (s : State) : s.advance.key = s.key := rfl
@[simp] theorem State.advance_shiftQuirk (s : State) : s.advance.shiftQuirk = s.shiftQuirk := rfl
@[simp] theorem State.advance_loadStoreQuirk (s : State) : s.advance.loadStoreQuirk = s.loadStoreQuirk := rfl
@[simp] theorem State.advance_mem (s : State) : s.advance.mem = s.mem := rfl
@[simp] theorem State.advance_fbPrev (s : State) : s.advance.fbPrev = s.fbPrev := rfl
@[simp] theorem State.advance_fault (s : State) : s.advance.fault = s.fault := rfl
@[simp] theorem State.advance_draws (s : State) : s.advance.draws = s.draws := rfl
@[simp] theorem State.advance_cfg (s : State) : s.advance.cfg = s.cfg := rfl
@[simp] theorem State.advance_readByte (s : State) (a : Nat) : s.advance.readByte a = s.readByte a := rfl
@[simp] theorem State.advance_reg (s : State) (x : Reg) : s.advance.reg x = s.reg x := rfl
@[simp] theorem State.advance_keyDown (s : State) (k : Reg) : s.advance.keyDown k = s.keyDown k := rfl

/-! ### `jump` -/

@[simp] theorem State.jump_v (s : State) (w : Word) : (s.jump w).v = s.v := rfl
@[simp] theorem State.jump_i (s : State) (w : Word) : (s.jump w).i = s.i := rfl
@[simp] theorem State.jump_pc (s : State) (w : Word) : (s.jump w).pc = w := rfl
@[simp] theorem State.jump_sp (s : State) (w : Word) : (s.jump w).sp = s.sp := rfl
@[simp] theorem State.jump_dt (s : State) (w : Word) : (s.jump w).dt = s.dt := rfl
@[simp] theorem State.jump_st (s : State) (w : Word) : (s.jump w).st = s.st := rfl
@[simp] theorem State.jump_key (s : State) (w : Word) : (s.jump w).key = s.key := rfl
@[simp] theorem State.jump_shiftQuirk (s : State) (w : Word) : (s.jump w).shiftQuirk = s.shiftQuirk := rfl
@[simp] theorem State.jump_loadStoreQuirk (s : State) (w : Word) : (s.jump w).loadStoreQuirk = s.loadStoreQuirk := rfl
@[simp] theorem State.jump_mem (s : State) (w : Word) : (s.jump w).mem = s.mem := rfl
@[simp] theorem State.jump_fbPrev (s : State) (w : Word) : (s.jump w).fbPrev = s.fbPrev := rfl
@[simp] theorem State.jump_fault (s : State) (w : Word) : (s.jump w).fault = s.fault := rfl
@[simp] theorem State.jump_draws (s : State) (w : Word) : (s.jump w).draws = s.draws := rfl
@[simp] theorem State.jump_cfg (s : State) (w : Word) : (s.jump w).cfg = s.cfg := rfl
@[simp] theorem State.jump_readByte (s : State) (w : Word) (a : Nat) : (s.jump w).readByte a = s.readByte a := rfl
@[simp] theorem State.jump_reg (s : State) (w : Word) (x : Reg) : (s.jump w).reg x = s.reg x := rfl
@[simp] theorem State.jump_keyDown (s : State) (w : Word) (k : Reg) : (s.jump w).keyDown k = s.keyDown k := rfl

/-! ### `setReg` -/

@[simp] theorem State.setReg_v (s : State) (r : Reg) (b : Byte) : (s.setReg r b).v = s.v.set r b := rfl
@[simp] theorem State.setReg_i (s : State) (r : Reg) (b : Byte) : (s.setReg r b).i = s.i := rfl
@[simp] theorem State.setReg_pc (s : State) (r : Reg) (b : Byte) : (s.setReg r b).pc = s.pc := rfl
@[simp] theorem State.setReg_sp (s : State) (r : Reg) (b : Byte) : (s.setReg r b).sp = s.sp := rfl
@[simp] theorem State.setReg_dt (s : State) (r : Reg) (b : Byte) : (s.setReg r b).dt = s.dt := rfl
@[simp] theorem State.setReg_st (s : State) (r : Reg) (b : Byte) : (s.setReg r b).st = s.st := rfl
@[simp] theorem State.setReg_key (s : State) (r : Reg) (b : Byte) : (s.setReg r b).key = s.key := rfl
@[simp] theorem State.setReg_shiftQuirk (s : State) (r : Reg) (b : Byte) : (s.setReg r b).shiftQuirk = s.shiftQuirk := rfl
@[simp] theorem State.setReg_loadStoreQuirk (s : State) (r : Reg) (b : Byte) : (s.setReg r b).loadStoreQuirk = s.loadStoreQuirk := rfl
@[simp] theorem State.setReg_mem (s : State) (r : Reg) (b : Byte) : (s.setReg r b).mem = s.mem := rfl
@[simp] theorem State.setReg_fbPrev (s : State) (r : Reg) (b : Byte) : (s.setReg r b).fbPrev = s.fbPrev := rfl
@[simp] theorem State.setReg_fault (s : State) (r : Reg) (b : Byte) : (s.setReg r b).fault = s.fault := rfl
@[simp] theorem State.setReg_draws (s : State) (r : Reg) (b : Byte) : (s.setReg r b).draws = s.draws := rfl
@[simp] theorem State.setReg_cfg (s : State) (r : Reg) (b : Byte) : (s.setReg r b).cfg = s.cfg := rfl
@[simp] theorem State.setReg_readByte (s : State) (r : Reg) (b : Byte) (a : Nat) : (s.setReg r b).readByte a = s.readByte a := rfl
@[simp] theorem State.setReg_keyDown (s : State) (r : Reg) (b : Byte) (k : Reg) : (s.setReg r b).keyDown k = s.keyDown k := rfl

/-! ### `setFlag` -/

@[simp] theorem State.setFlag_v (s : State) (b : Bool) : (s.setFlag b).v = s.v.set vf (flagByte b) := rfl
@[simp] theorem State.setFlag_i (s : State) (b : Bool) : (s.setFlag b).i = s.i := rfl
@[simp] theorem State.setFlag_pc (s : State) (b : Bool) : (s.setFlag b).pc = s.pc := rfl
@[simp] theorem State.setFlag_sp (s : State) (b : Bool) : (s.setFlag b).sp = s.sp := rfl
@[simp] theorem State.setFlag_dt (s : State) (b : Bool) : (s.setFlag b).dt = s.dt := rfl
@[simp] theorem State.setFlag_st (s : State) (b : Bool) : (s.setFlag b).st = s.st := rfl
@[simp] theorem State.setFlag_key (s : State) (b : Bool) : (s.setFlag b).key = s.key := rfl
@[simp] theorem State.setFlag_shiftQuirk (s : State) (b : Bool) : (s.setFlag b).shiftQuirk = s.shiftQuirk := rfl
@[simp] theorem State.setFlag_loadStoreQuirk (s : State) (b : Bool) : (s.setFlag b).loadStoreQuirk = s.loadStoreQuirk := rfl
@[simp] theorem State.setFlag_mem (s : State) (b : Bool) : (s.setFlag b).mem = s.mem := rfl
@[simp] theorem State.setFlag_fbPrev (s : State) (b : Bool) : (s.setFlag b).fbPrev = s.fbPrev := rfl
@[simp] theorem State.setFlag_fault (s : State) (b : Bool) : (s.setFlag b).fault = s.fault := rfl
@[simp] theorem State.setFlag_draws (s : State) (b : Bool) : (s.setFlag b).draws = s.draws := rfl
@[simp] theorem State.setFlag_cfg (s : State) (b : Bool) : (s.setFlag b).cfg = s.cfg := rfl
@[simp] theorem State.setFlag_readByte (s : State) (b : Bool) (a : Nat) : (s.setFlag b).readByte a = s.readByte a := rfl
@[simp] theorem State.setFlag_keyDown (s : State) (b : Bool) (k : Reg) : (s.setFlag b).keyDown k = s.keyDown k := rfl

/-! ### `setResultFlag` -/

@[simp] theorem State.setResultFlag_v (s : State) (r : Reg) (b : Byte) (f : Bool) : (s.setResultFlag r b f).v = (s.v.set r b).set vf (flagByte f) := rfl
@[simp] theorem State.setResultFlag_i (s : State) (r : Reg) (b : Byte) (f : Bool) : (s.setResultFlag r b f).i = s.i := rfl
@[simp] theorem State.setResultFlag_pc (s : State) (r : Reg) (b : Byte) (f : Bool) : (s.setResultFlag r b f).pc = s.pc := rfl
@[simp] theorem State.setResultFlag_sp (s : State) (r : Reg) (b : Byte) (f : Bool) : (s.setResultFlag r b f).sp = s.sp := rfl
@[simp] theorem State.setResultFlag_dt (s : State) (r : Reg) (b : Byte) (f : Bool) : (s.setResultFlag r b f).dt = s.dt := rfl
@[simp] theorem State.setResultFlag_st (s : State) (r : Reg) (b : Byte) (f : Bool) : (s.setResultFlag r b f).st = s.st := rfl
@[simp] theorem State.setResultFlag_key (s : State) (r : Reg) (b : Byte) (f : Bool) : (s.setResultFlag r b f).key = s.key := rfl
@[simp] theorem State.setResultFlag_shiftQuirk (s : State) (r : Reg) (b : Byte) (f : Bool) : (s.setResultFlag r b f).shiftQuirk = s.shiftQuirk := rfl
@[simp] theorem State.setResultFlag_loadStoreQuirk (s : State) (r : Reg) (b : Byte) (f : Bool) : (s.setResultFlag r b f).loadStoreQuirk = s.loadStoreQuirk := rfl
@[simp] theorem State.setResultFlag_mem (s : State) (r : Reg) (b : Byte) (f : Bool) : (s.setResultFlag r b f).mem = s.mem := rfl
@[simp] theorem State.setResultFlag_fbPrev (s : State) (r : Reg) (b : Byte) (f : Bool) : (s.setResultFlag r b f).fbPrev = s.fbPrev := rfl
@[simp] theorem State.setResultFlag_fault (s : State) (r : Reg) (b : Byte) (f : Bool) : (s.setResultFlag r b f).fault = s.fault := rfl
@[simp] theorem State.setResultFlag_draws (s : State) (r : Reg) (b : Byte) (f : Bool) : (s.setResultFlag r b f).draws = s.draws := rfl
@[simp] theorem State.setResultFlag_cfg (s : State) (r : Reg) (b : Byte) (f : Bool) : (s.setResultFlag r b f).cfg = s.cfg := rfl
@[simp] theorem State.setResultFlag_readByte (s : State) (r : Reg) (b : Byte) (f : Bool) (a : Nat) : (s.setResultFlag r b f).readByte a = s.readByte a := rfl
@[simp] theorem State.setResultFlag_keyDown (s : State) (r : Reg) (b : Byte) (f : Bool) (k : Reg) : (s.setResultFlag r b f).keyDown k = s.keyDown k := rfl

/-! ### `setI` -/

@[simp] theorem State.setI_v (s : State) (w : Word) : (s.setI w).v = s.v := rfl
@[simp] theorem State.setI_i (s : State) (w : Word) : (s.setI w).i = w := rfl
@[simp] theorem State.setI_pc (s : State) (w : Word) : (s.setI w).pc = s.pc := rfl
@[simp] theorem State.setI_sp (s : State) (w : Word) : (s.setI w).sp = s.sp := rfl
@[simp] theorem State.setI_dt (s : State) (w : Word) : (s.setI w).dt = s.dt := rfl
@[simp] theorem State.setI_st (s : State) (w : Word) : (s.setI w).st = s.st := rfl
@[simp] theorem State.setI_key (s : State) (w : Word) : (s.setI w).key = s.key := rfl
@[simp] theorem State.setI_shiftQuirk (s : State) (w : Word) : (s.setI w).shiftQuirk = s.shiftQuirk := rfl
@[simp] theorem State.setI_loadStoreQuirk (s : State) (w : Word) : (s.setI w).loadStoreQuirk = s.loadStoreQuirk := rfl
@[simp] theorem State.setI_mem (s : State) (w : Word) : (s.setI w).mem = s.mem := rfl
@[simp] theorem State.setI_fbPrev (s : State) (w : Word) : (s.setI w).fbPrev = s.fbPrev := rfl
@[simp] theorem State.setI_fault (s : State) (w : Word) : (s.setI w).fault = s.fault := rfl
@[simp] theorem State.setI_draws (s : State) (w : Word) : (s.setI w).draws = s.draws := rfl
@[simp] theorem State.setI_cfg (s : State) (w : Word) : (s.setI w).cfg = s.cfg := rfl
@[simp] theorem State.setI_readByte (s : State) (w : Word) (a : Nat) : (s.setI w).readByte a = s.readByte a := rfl
@[simp] theorem State.setI_reg (s : State) (w : Word) (x : Reg) : (s.setI w).reg x = s.reg x := rfl
@[simp] theorem State.setI_keyDown (s : State) (w : Word) (k : Reg) : (s.setI w).keyDown k = s.keyDown k := rfl

/-! ### `drawn` -/

@[simp] theorem State.drawn_v (s : State) : s.drawn.v = s.v := rfl
@[simp] theorem State.drawn_i (s : State) : s.drawn.i = s.i := rfl
@[simp] theorem State.drawn_pc (s : State) : s.drawn.pc = s.pc := rfl
@[simp] theorem State.drawn_sp (s : State) : s.drawn.sp = s.sp := rfl
@[simp] theorem State.drawn_dt (s : State) : s.drawn.dt = s.dt := rfl
@[simp] theorem State.drawn_st (s : State) : s.drawn.st = s.st := rfl
@[simp] theorem State.drawn_key (s : State) : s.drawn.key = s.key := rfl
@[simp] theorem State.drawn_shiftQuirk (s : State) : s.drawn.shiftQuirk = s.shiftQuirk := rfl
@[simp] theorem State.drawn_loadStoreQuirk (s : State) : s.drawn.loadStoreQuirk = s.loadStoreQuirk := rfl
@[simp] theorem State.drawn_mem (s : State) : s.drawn.mem = s.mem := rfl
@[simp] theorem State.drawn_fbPrev (s : State) : s.drawn.fbPrev = s.fbPrev := rfl
@[simp] theorem State.drawn_fault (s : State) : s.drawn.fault = s.fault := rfl
@[simp] theorem State.drawn_draws (s : State) : s.drawn.draws = s.draws + 1 := rfl
@[simp] theorem State.drawn_cfg (s : State) : s.drawn.cfg = s.cfg := rfl
@[simp] theorem State.drawn_readByte (s : State) (a : Nat) : s.drawn.readByte a = s.readByte a := rfl
@[simp] theorem State.drawn_reg (s : State) (x : Reg) : s.drawn.reg x = s.reg x := rfl
@[simp] theorem State.drawn_keyDown (s : State) (k : Reg) : s.drawn.keyDown k = s.keyDown k := rfl

/-! ### `snapshot` -/

@[simp] theorem State.snapshot_v (s : State) : s.snapshot.v = s.v := rfl
@[simp] theorem State.snapshot_i (s : State) : s.snapshot.i = s.i := rfl
@[simp] theorem State.snapshot_pc (s : State) : s.snapshot.pc = s.pc := rfl
@[simp] theorem State.snapshot_sp (s : State) : s.snapshot.sp = s.sp := rfl
@[simp] theorem State.snapshot_dt (s : State) : s.snapshot.dt = s.dt := rfl
@[simp] theorem State.snapshot_st (s : State) : s.snapshot.st = s.st := rfl
@[simp] theorem State.snapshot_key (s : State) : s.snapshot.key = s.key := rfl
@[simp] theorem State.snapshot_shiftQuirk (s : State) : s.snapshot.shiftQuirk = s.shiftQuirk := rfl
@[simp] theorem State.snapshot_loadStoreQuirk (s : State) : s.snapshot.loadStoreQuirk = s.loadStoreQuirk := rfl
@[simp] theorem State.snapshot_mem (s : State) : s.snapshot.mem = s.mem := rfl
@[simp] theorem State.snapshot_fbPrev (s : State) : s.snapshot.fbPrev = s.authFrame := rfl
@[simp] theorem State.snapshot_fault (s : State) : s.snapshot.fault = s.fault := rfl
@[simp] theorem State.snapshot_draws (s : State) : s.snapshot.draws = s.draws := rfl
@[simp] theorem State.snapshot_cfg (s : State) : s.snapshot.cfg = s.cfg := rfl
@[simp] theorem State.snapshot_readByte (s : State) (a : Nat) : s.snapshot.readByte a = s.readByte a := rfl
@[simp] theorem State.snapshot_reg (s : State) (x : Reg) : s.snapshot.reg x = s.reg x := rfl
@[simp] theorem State.snapshot_keyDown (s : State) (k : Reg) : s.snapshot.keyDown k = s.keyDown k := rfl

/-! ### `writeBytes` -/

@[simp] theorem State.writeBytes_v (s : State) (a : Nat) (bs : List Byte) : (s.writeBytes a bs).v = s.v := rfl
@[simp] theorem State.writeBytes_i (s : State) (a : Nat) (bs : List Byte) : (s.writeBytes a bs).i = s.i := rfl
@[simp] theorem State.writeBytes_pc (s : State) (a : Nat) (bs : List Byte) : (s.writeBytes a bs).pc = s.pc := rfl
@[simp] theorem State.writeBytes_sp (s : State) (a : Nat) (bs : List Byte) : (s.writeBytes a bs).sp = s.sp := rfl
@[simp] theorem State.writeBytes_dt (s : State) (a : Nat) (bs : List Byte) : (s.writeBytes a bs).dt = s.dt := rfl
@[simp] theorem State.writeBytes_st (s : State) (a : Nat) (bs : List Byte) : (s.writeBytes a bs).st = s.st := rfl
@[simp] theorem State.writeBytes_key (s : State) (a : Nat) (bs : List Byte) : (s.writeBytes a bs).key = s.key := rfl
@[simp] theorem State.writeBytes_shiftQuirk (s : State) (a : Nat) (bs : List Byte) : (s.writeBytes a bs).shiftQuirk = s.shiftQuirk := rfl
@[simp] theorem State.writeBytes_loadStoreQuirk (s : State) (a : Nat) (bs : List Byte) : (s.writeBytes a bs).loadStoreQuirk = s.loadStoreQuirk := rfl
@[simp] theorem State.writeBytes_mem (s : State) (a : Nat) (bs : List Byte) : (s.writeBytes a bs).mem = Memory.writeBytes s.cfg s.mem a bs := rfl
@[simp] theorem State.writeBytes_fbPrev (s : State) (a : Nat) (bs : List Byte) : (s.writeBytes a bs).fbPrev = s.fbPrev := rfl
@[simp] theorem State.writeBytes_fault (s : State) (a : Nat) (bs : List Byte) : (s.writeBytes a bs).fault = s.fault := rfl
@[simp] theorem State.writeBytes_draws (s : State) (a : Nat) (bs : List Byte) : (s.writeBytes a bs).draws = s.draws := rfl
@[simp] theorem State.writeBytes_cfg (s : State) (a : Nat) (bs : List Byte) : (s.writeBytes a bs).cfg = s.cfg := rfl
@[simp] theorem State.writeBytes_reg (s : State) (a : Nat) (bs : List Byte) (x : Reg) : (s.writeBytes a bs).reg x = s.reg x := rfl
@[simp] theorem State.writeBytes_keyDown (s : State) (a : Nat) (bs : List Byte) (k : Reg) : (s.writeBytes a bs).keyDown k = s.keyDown k := rfl

/-! ### `writeWord` -/

@[simp] theorem State.writeWord_v (s : State) (a : Nat) (w : Word) : (s.writeWord a w).v = s.v := rfl
@[simp] theorem State.writeWord_i (s : State) (a : Nat) (w : Word) : (s.writeWord a w).i = s.i := rfl
@[simp] theorem State.writeWord_pc (s : State) (a : Nat) (w : Word) : (s.writeWord a w).pc = s.pc := rfl
@[simp] theorem State.writeWord_sp (s : State) (a : Nat) (w : Word) : (s.writeWord a w).sp = s.sp := rfl
@[simp] theorem State.writeWord_dt (s : State) (a : Nat) (w : Word) : (s.writeWord a w).dt = s.dt := rfl
@[simp] theorem State.writeWord_st (s : State) (a : Nat) (w : Word) : (s.writeWord a w).st = s.st := rfl
@[simp] theorem State.writeWord_key (s : State) (a : Nat) (w : Word) : (s.writeWord a w).key = s.key := rfl
@[simp] theorem State.writeWord_shiftQuirk (s : State) (a : Nat) (w : Word) : (s.writeWord a w).shiftQuirk = s.shiftQuirk := rfl
@[simp] theorem State.writeWord_loadStoreQuirk (s : State) (a : Nat) (w : Word) : (s.writeWord a w).loadStoreQuirk = s.loadStoreQuirk := rfl
@[simp] theorem State.writeWord_mem (s : State) (a : Nat) (w : Word) : (s.writeWord a w).mem = Memory.writeBytes s.cfg s.mem a (wordBytes w) := rfl
@[simp] theorem State.writeWord_fbPrev (s : State) (a : Nat) (w : Word) : (s.writeWord a w).fbPrev = s.fbPrev := rfl
@[simp] theorem State.writeWord_fault (s : State) (a : Nat) (w : Word) : (s.writeWord a w).fault = s.fault := rfl
@[simp] theorem State.writeWord_draws (s : State) (a : Nat) (w : Word) : (s.writeWord a w).draws = s.draws := rfl
@[simp] theorem State.writeWord_cfg (s : State) (a : Nat) (w : Word) : (s.writeWord a w).cfg = s.cfg := rfl
@[simp] theorem State.writeWord_reg (s : State) (a : Nat) (w : Word) (x : Reg) : (s.writeWord a w).reg x = s.reg x := rfl
@[simp] theorem State.writeWord_keyDown (s : State) (a : Nat) (w : Word) (k : Reg) : (s.writeWord a w).keyDown k = s.keyDown k := rfl

/-! ### `writeFrame` -/

@[simp] theorem State.writeFrame_v (s : State) (a : Nat) (fr : Frame) : (s.writeFrame a fr).v = s.v := rfl
@[simp] theorem State.writeFrame_i (s : State) (a : Nat) (fr : Frame) : (s.writeFrame a fr).i = s.i := rfl
@[simp] theorem State.writeFrame_pc (s : State) (a : Nat) (fr : Frame) : (s.writeFrame a fr).pc = s.pc := rfl
@[simp] theorem State.writeFrame_sp (s : State) (a : Nat) (fr : Frame) : (s.writeFrame a fr).sp = s.sp := rfl
@[simp] theorem State.writeFrame_dt (s : State) (a : Nat) (fr : Frame) : (s.writeFrame a fr).dt = s.dt := rfl
@[simp] theorem State.writeFrame_st (s : State) (a : Nat) (fr : Frame) : (s.writeFrame a fr).st = s.st := rfl
@[simp] theorem State.writeFrame_key (s : State) (a : Nat) (fr : Frame) : (s.writeFrame a fr).key = s.key := rfl
@[simp] theorem State.writeFrame_shiftQuirk (s : State) (a : Nat) (fr : Frame) : (s.writeFrame a fr).shiftQuirk = s.shiftQuirk := rfl
@[simp] theorem State.writeFrame_loadStoreQuirk (s : State) (a : Nat) (fr : Frame) : (s.writeFrame a fr).loadStoreQuirk = s.loadStoreQuirk := rfl
@[simp] theorem State.writeFrame_mem (s : State) (a : Nat) (fr : Frame) : (s.writeFrame a fr).mem = Memory.writeBytes s.cfg s.mem a fr.toList := rfl
@[simp] theorem State.writeFrame_fbPrev (s : State) (a : Nat) (fr : Frame) : (s.writeFrame a fr).fbPrev = s.fbPrev := rfl
@[simp] theorem State.writeFrame_fault (s : State) (a : Nat) (fr : Frame) : (s.writeFrame a fr).fault = s.fault := rfl
@[simp] theorem State.writeFrame_draws (s : State) (a : Nat) (fr : Frame) : (s.writeFrame a fr).draws = s.draws := rfl
@[simp] theorem State.writeFrame_cfg (s : State) (a : Nat) (fr : Frame) : (s.writeFrame a fr).cfg = s.cfg := rfl
@[simp] theorem State.writeFrame_reg (s : State) (a : Nat) (fr : Frame) (x : Reg) : (s.writeFrame a fr).reg x = s.reg x := rfl
@[simp] theorem State.writeFrame_keyDown (s : State) (a : Nat) (fr : Frame) (k : Reg) : (s.writeFrame a fr).keyDown k = s.keyDown k := rfl

/-! ### `push` -/

@[simp] theorem State.push_v (s : State) (w : Word) : (s.push w).v = s.v := rfl
@[simp] theorem State.push_i (s : State) (w : Word) : (s.push w).i = s.i := rfl
@[simp] theorem State.push_pc (s : State) (w : Word) : (s.push w).pc = s.pc := rfl
@[simp] theorem State.push_sp (s : State) (w : Word) : (s.push w).sp = s.sp - 2 := rfl
@[simp] theorem State.push_dt (s : State) (w : Word) : (s.push w).dt = s.dt := rfl
@[simp] theorem State.push_st (s : State) (w : Word) : (s.push w).st = s.st := rfl
@[simp] theorem State.push_key (s : State) (w : Word) : (s.push w).key = s.key := rfl
@[simp] theorem State.push_shiftQuirk (s : State) (w : Word) : (s.push w).shiftQuirk = s.shiftQuirk := rfl
@[simp] theorem State.push_loadStoreQuirk (s : State) (w : Word) : (s.push w).loadStoreQuirk = s.loadStoreQuirk := rfl
@[simp] theorem State.push_mem (s : State) (w : Word) : (s.push w).mem = Memory.writeBytes s.cfg s.mem (s.sp - 2).toNat (wordBytes w) := rfl
@[simp] theorem State.push_fbPrev (s : State) (w : Word) : (s.push w).fbPrev = s.fbPrev := rfl
@[simp] theorem State.push_fault (s : State) (w : Word) : (s.push w).fault = s.fault := rfl
@[simp] theorem State.push_draws (s : State) (w : Word) : (s.push w).draws = s.draws := rfl
@[simp] theorem State.push_cfg (s : State) (w : Word) : (s.push w).cfg = s.cfg := rfl
@[simp] theorem State.push_reg (s : State) (w : Word) (x : Reg) : (s.push w).reg x = s.reg x := rfl
@[simp] theorem State.push_keyDown (s : State) (w : Word) (k : Reg) : (s.push w).keyDown k = s.keyDown k := rfl

/-! ### `pop` -/

@[simp] theorem State.pop_v (s : State) : s.pop.v = s.v := rfl
@[simp] theorem State.pop_i (s : State) : s.pop.i = s.i := rfl
@[simp] theorem State.pop_pc (s : State) : s.pop.pc = s.pc := rfl
@[simp] theorem State.pop_sp (s : State) : s.pop.sp = s.sp + 2 := rfl
@[simp] theorem State.pop_dt (s : State) : s.pop.dt = s.dt := rfl
@[simp] theorem State.pop_st (s : State) : s.pop.st = s.st := rfl
@[simp] theorem State.pop_key (s : State) : s.pop.key = s.key := rfl
@[simp] theorem State.pop_shiftQuirk (s : State) : s.pop.shiftQuirk = s.shiftQuirk := rfl
@[simp] theorem State.pop_loadStoreQuirk (s : State) : s.pop.loadStoreQuirk = s.loadStoreQuirk := rfl
@[simp] theorem State.pop_mem (s : State) : s.pop.mem = s.mem := rfl
@[simp] theorem State.pop_fbPrev (s : State) : s.pop.fbPrev = s.fbPrev := rfl
@[simp] theorem State.pop_fault (s : State) : s.pop.fault = s.fault := rfl
@[simp] theorem State.pop_draws (s : State) : s.pop.draws = s.draws := rfl
@[simp] theorem State.pop_cfg (s : State) : s.pop.cfg = s.cfg := rfl
@[simp] theorem State.pop_readByte (s : State) (a : Nat) : s.pop.readByte a = s.readByte a := rfl
@[simp] theorem State.pop_reg (s : State) (x : Reg) : s.pop.reg x = s.reg x := rfl
@[simp] theorem State.pop_keyDown (s : State) (k : Reg) : s.pop.keyDown k = s.keyDown k := rfl

/-! ### Reading a register after a write -/

theorem State.reg_setReg (s : State) (r x : Reg) (b : Byte) : (s.setReg r b).reg x = if x = r then b else s.reg x := by
  simp only [State.reg, State.setReg, Vector.get_eq_getElem, Vector.getElem_set]
  by_cases h : x = r
  · simp [h]
  · rw [if_neg (fun e => h (Fin.ext e.symm)), if_neg h]

@[simp] theorem State.reg_setReg_same (s : State) (r : Reg) (b : Byte) : (s.setReg r b).reg r = b := by
  simp [State.reg_setReg]

theorem State.reg_setReg_other (s : State) (r x : Reg) (b : Byte) (h : x ≠ r) : (s.setReg r b).reg x = s.reg x := by
  simp [State.reg_setReg, h]

@[simp] theorem State.reg_setFlag_vf (s : State) (b : Bool) : (s.setFlag b).reg vf = flagByte b :=
  s.reg_setReg_same vf (flagByte b)

theorem State.reg_setFlag_other (s : State) (x : Reg) (b : Bool) (h : x ≠ vf) : (s.setFlag b).reg x = s.reg x :=
  s.reg_setReg_other vf x (flagByte b) h

/-- After a result and a flag: VF holds the flag, even when it was the destination (41 R123). -/
@[simp] theorem State.reg_setResultFlag_vf (s : State) (r : Reg) (b : Byte) (f : Bool) :
    (s.setResultFlag r b f).reg vf = flagByte f := State.reg_setFlag_vf _ _

theorem State.reg_setResultFlag_dest (s : State) (r : Reg) (b : Byte) (f : Bool) (h : r ≠ vf) :
    (s.setResultFlag r b f).reg r = b := by
  rw [State.setResultFlag, State.reg_setFlag_other _ _ _ h, State.reg_setReg_same]

theorem State.reg_setResultFlag_other (s : State) (r x : Reg) (b : Byte) (f : Bool) (h : x ≠ r) (h' : x ≠ vf) :
    (s.setResultFlag r b f).reg x = s.reg x := by
  rw [State.setResultFlag, State.reg_setFlag_other _ _ _ h', State.reg_setReg_other _ _ _ _ h]

/-- Writing a register with what it holds changes nothing. -/
theorem State.setReg_self (s : State) (r : Reg) : s.setReg r (s.reg r) = s := by
  simp [State.setReg, State.reg, Vector.get_eq_getElem]

/-- Registers read everywhere the same are the same registers. -/
theorem State.v_ext (s t : State) (h : ∀ r, s.reg r = t.reg r) : s.v = t.v := by
  apply Vector.ext
  intro k hk
  exact h ⟨k, hk⟩

/-! ### The skip, the flag byte -/

theorem State.skipIf_eq (s : State) (c : Bool) : s.skipIf c = { s with pc := if c then s.pc + 4 else s.pc + 2 } := by
  cases c
  · rfl
  · simp only [State.skipIf, State.advance, if_true, BitVec.add_assoc]
    rfl

theorem flagByte_toNat (b : Bool) : (flagByte b).toNat = if b then 1 else 0 := by cases b <;> rfl

/-! ### Bulk register loads -/

theorem State.setRegs_frame (s : State) (k : Nat) (bs : List Byte) : s.setRegs k bs = { s with v := (s.setRegs k bs).v } := by
  induction bs generalizing s k with
  | nil => rfl
  | cons b bs ih => rw [State.setRegs, ih]; rfl

/-- A bulk register load writes exactly the registers it counts (42 R135). -/
theorem State.reg_setRegs (s : State) (k : Nat) (bs : List Byte) (h : k + bs.length ≤ 16) (x : Reg) :
    (s.setRegs k bs).reg x = if h : k ≤ x.val ∧ x.val < k + bs.length then bs[x.val - k]'(by omega) else s.reg x := by
  induction bs generalizing s k with
  | nil => rw [State.setRegs, dif_neg (by simp only [List.length_nil]; omega)]
  | cons b bs ih =>
    simp only [List.length_cons] at h
    rw [State.setRegs, ih _ _ (by omega), State.reg_setReg]
    have hk : (Fin.ofNat 16 k).val = k := Nat.mod_eq_of_lt (by omega)
    by_cases hx : x.val = k
    · have e : x = Fin.ofNat 16 k := Fin.ext (by omega)
      rw [dif_neg (by omega), if_pos e, dif_pos (by simp only [List.length_cons]; omega)]
      simp [hx]
    · have : x ≠ Fin.ofNat 16 k := fun e => hx (by rw [e, hk])
      by_cases hr : k + 1 ≤ x.val ∧ x.val < k + 1 + bs.length
      · obtain ⟨d, hd⟩ : ∃ d, x.val - k = d + 1 := ⟨x.val - k - 1, by omega⟩
        have hd' : x.val - (k + 1) = d := by omega
        simp only [hr, hd, hd', this, List.length_cons, and_self, dite_true, List.getElem_cons_succ]
        rw [dif_pos (by omega)]
      · rw [dif_neg hr, if_neg this, dif_neg (by simp only [List.length_cons]; omega)]

end Sys2Proof.Machine
end

