-- ==== Sys2Proof/Laws/Memory.lean ====
section
/-!
SUPPORT. Memory: what reading gives after a write (the byte written there, and every other byte as before), and that every memory
operation keeps the canonical form.
-/

namespace Sys2Proof.Machine

/-! ### Read after write -/

theorem Memory.lookup_eq_none (m : Memory) (a : Nat) (h : ∀ p ∈ m, a < p.1) : Memory.lookup m a = none := by
  induction m with
  | nil => rfl
  | cons p m ih =>
    obtain ⟨a', b⟩ := p
    have h1 : a < a' := h (a', b) (by simp)
    rw [Memory.lookup, if_neg (by omega)]
    exact ih fun q hq => h q (by simp [hq])

theorem Memory.lookup_append_cell (c : Config) (a : Nat) (b : Byte) (m : Memory) (x : Nat) :
    Memory.lookup (cellFor c a b ++ m) x =
      if x = a ∧ b ≠ resetByte c a then some b else Memory.lookup m x := by
  unfold cellFor
  split
  · simp_all
  · rename_i hb
    by_cases hx : x = a
    · simp [Memory.lookup, hx, hb]
    · simp [Memory.lookup, hx, Ne.symm hx]

/-- Reading after writing one byte of a sorted memory (20_memory R53). -/
theorem Memory.read_write (c : Config) (m : Memory) (a : Nat) (b : Byte) (x : Nat)
    (h : m.Pairwise (fun p q => p.1 < q.1)) :
    Memory.read c (Memory.write c m a b) x = if x = a then b else Memory.read c m x := by
  induction m with
  | nil =>
    have := Memory.lookup_append_cell c a b [] x
    rw [List.append_nil] at this
    simp only [Memory.read, Memory.write, this]
    by_cases hx : x = a <;> by_cases hb : b = resetByte c a <;> simp_all [Memory.lookup]
  | cons p m ih =>
    obtain ⟨a', b'⟩ := p
    obtain ⟨h1, h2⟩ := List.pairwise_cons.mp h
    have later (hle : a ≤ a') : ∀ p ∈ m, a < p.1 := fun p hp => lt_of_le_of_lt hle (h1 p hp)
    have ih := ih h2
    simp only [Memory.read] at ih ⊢
    rw [Memory.write]
    split
    · rename_i hlt
      rw [Memory.lookup_append_cell]
      by_cases hx : x = a
      · have : Memory.lookup m a = none := Memory.lookup_eq_none m a (later hlt.le)
        by_cases hb : b = resetByte c a <;> simp [hx, hb, Memory.lookup, this, show a' ≠ a by omega]
      · simp [hx]
    · split
      · rename_i _ heq
        subst heq
        rw [Memory.lookup_append_cell]
        by_cases hx : x = a
        · have : Memory.lookup m a = none := Memory.lookup_eq_none m a (later le_rfl)
          by_cases hb : b = resetByte c a <;> simp [hx, hb, this]
        · simp [hx, Memory.lookup, show a ≠ x from fun e => hx e.symm]
      · simp only [Memory.lookup]
        split
        · rename_i hne hax
          simp [show x ≠ a by omega]
        · exact ih

/-! ### The canonical form is kept -/

theorem Memory.mem_cellFor (c : Config) (a : Nat) (b : Byte) (p : Host.Cell) (h : p ∈ cellFor c a b) :
    p = (a, b) ∧ b ≠ resetByte c a := by
  unfold cellFor at h
  split at h
  · simp at h
  · exact ⟨by simpa using h, by assumption⟩

theorem Memory.mem_write (c : Config) (m : Memory) (a : Nat) (b : Byte) (p : Host.Cell)
    (h : p ∈ Memory.write c m a b) : (p = (a, b) ∧ b ≠ resetByte c a) ∨ p ∈ m := by
  induction m with
  | nil => exact .inl (Memory.mem_cellFor c a b p h)
  | cons q m ih =>
    obtain ⟨a', b'⟩ := q
    rw [Memory.write] at h
    split at h
    · exact (List.mem_append.mp h).imp (Memory.mem_cellFor c a b p) id
    · split at h
      · exact (List.mem_append.mp h).imp (Memory.mem_cellFor c a b p) (List.mem_cons_of_mem _)
      · rcases List.mem_cons.mp h with rfl | h
        · exact .inr (by simp)
        · exact (ih h).imp id (List.mem_cons_of_mem _)

theorem Memory.pairwise_cellFor_append (c : Config) (a : Nat) (b : Byte) (m : Memory)
    (h : m.Pairwise (fun p q => p.1 < q.1)) (ha : ∀ p ∈ m, a < p.1) :
    (cellFor c a b ++ m).Pairwise (fun p q => p.1 < q.1) := by
  unfold cellFor
  split
  · simpa using h
  · simpa using ⟨fun x y hxy => ha (x, y) hxy, h⟩

theorem Memory.write_sorted (c : Config) (m : Memory) (a : Nat) (b : Byte)
    (h : m.Pairwise (fun p q => p.1 < q.1)) : (Memory.write c m a b).Pairwise (fun p q => p.1 < q.1) := by
  induction m with
  | nil => simpa [Memory.write] using Memory.pairwise_cellFor_append c a b [] (by simp) (by simp)
  | cons q m ih =>
    obtain ⟨a', b'⟩ := q
    obtain ⟨h1, h2⟩ := List.pairwise_cons.mp h
    rw [Memory.write]
    split
    · rename_i hlt
      refine Memory.pairwise_cellFor_append c a b _ h ?_
      intro p hp
      rcases List.mem_cons.mp hp with rfl | hp
      · exact hlt
      · exact lt_trans hlt (h1 p hp)
    · split
      · rename_i _ heq
        exact Memory.pairwise_cellFor_append c a b m h2 (fun p hp => by rw [heq]; exact h1 p hp)
      · rename_i hlt hne
        refine List.pairwise_cons.mpr ⟨fun p hp => ?_, ih h2⟩
        rcases Memory.mem_write c m a b p hp with ⟨rfl, -⟩ | hp
        · show a' < a
          omega
        · exact h1 p hp

/-- A store of one byte inside memory keeps the canonical form. -/
theorem Memory.write_wf (c : Config) (m : Memory) (a : Nat) (b : Byte) (h : Memory.Wf c m) (ha : a < c.memSize) :
    Memory.Wf c (Memory.write c m a b) := by
  refine ⟨Memory.write_sorted c m a b h.1, fun p hp => ?_⟩
  rcases Memory.mem_write c m a b p hp with ⟨rfl, hb⟩ | hp
  · exact ⟨ha, hb⟩
  · exact h.2 p hp

/-! ### Consecutive bytes -/

theorem Memory.writeBytes_sorted (c : Config) (m : Memory) (a : Nat) (bs : List Byte)
    (h : m.Pairwise (fun p q => p.1 < q.1)) : (Memory.writeBytes c m a bs).Pairwise (fun p q => p.1 < q.1) := by
  induction bs generalizing m a with
  | nil => exact h
  | cons b bs ih => exact ih _ _ (Memory.write_sorted c m a b h)

/-- A store of consecutive bytes inside memory keeps the canonical form. -/
theorem Memory.writeBytes_wf (c : Config) (m : Memory) (a : Nat) (bs : List Byte) (h : Memory.Wf c m)
    (ha : a + bs.length ≤ c.memSize) : Memory.Wf c (Memory.writeBytes c m a bs) := by
  induction bs generalizing m a with
  | nil => exact h
  | cons b bs ih =>
    simp only [List.length_cons] at ha
    exact ih _ _ (Memory.write_wf c m a b h (by omega)) (by omega)

/-- Reading after storing consecutive bytes: the byte stored there, and every other byte as before. -/
theorem Memory.read_writeBytes (c : Config) (m : Memory) (a : Nat) (bs : List Byte) (x : Nat)
    (h : m.Pairwise (fun p q => p.1 < q.1)) :
    Memory.read c (Memory.writeBytes c m a bs) x =
      if hx : a ≤ x ∧ x < a + bs.length then bs[x - a]'(by omega) else Memory.read c m x := by
  induction bs generalizing m a with
  | nil => rw [Memory.writeBytes, dif_neg (by simp only [List.length_nil]; omega)]
  | cons b bs ih =>
    rw [Memory.writeBytes, ih _ _ (Memory.write_sorted c m a b h), Memory.read_write c m a b x h]
    by_cases hxa : x = a
    · subst hxa
      rw [dif_neg (by omega), if_pos rfl, dif_pos (by simp only [List.length_cons]; omega)]
      simp
    · by_cases hr : a + 1 ≤ x ∧ x < a + 1 + bs.length
      · obtain ⟨d, hd⟩ : ∃ d, x - a = d + 1 := ⟨x - a - 1, by omega⟩
        rw [dif_pos hr, dif_pos (by simp only [List.length_cons]; omega)]
        simp only [show x - (a + 1) = d by omega, hd, List.getElem_cons_succ]
      · rw [dif_neg hr, if_neg hxa, dif_neg (by simp only [List.length_cons]; omega)]

/-- The memory at reset is canonical. -/
theorem Memory.nil_wf (c : Config) : Memory.Wf c [] := by simp [Memory.Wf]

/-! ### The same, of a state -/

/-- Reading a byte of a state after storing consecutive bytes. -/
theorem State.readByte_writeBytes (s : State) (a : Nat) (bs : List Byte) (x : Nat) (h : Memory.Wf s.cfg s.mem) :
    (s.writeBytes a bs).readByte x =
      if hx : a ≤ x ∧ x < a + bs.length then bs[x - a]'(by omega) else s.readByte x :=
  Memory.read_writeBytes s.cfg s.mem a bs x h.1

theorem State.readByte_writeBytes_outside (s : State) (a : Nat) (bs : List Byte) (x : Nat) (h : Memory.Wf s.cfg s.mem)
    (hx : x < a ∨ a + bs.length ≤ x) : (s.writeBytes a bs).readByte x = s.readByte x := by
  rw [State.readByte_writeBytes s a bs x h, dif_neg (by omega)]

theorem State.writeBytes_wf (s : State) (a : Nat) (bs : List Byte) (h : Memory.Wf s.cfg s.mem)
    (ha : a + bs.length ≤ s.cfg.memSize) : Memory.Wf s.cfg (s.writeBytes a bs).mem :=
  Memory.writeBytes_wf s.cfg s.mem a bs h ha

theorem State.readByte_congr (s t : State) (hm : s.mem = t.mem) (hc : s.cfg = t.cfg) (a : Nat) :
    s.readByte a = t.readByte a := by simp [State.readByte, hm, hc]

@[simp] theorem State.readBytes_length (s : State) (a n : Nat) : (s.readBytes a n).length = n := by
  simp [State.readBytes]

@[simp] theorem State.readBytes_getElem (s : State) (a n k : Nat) (h : k < (s.readBytes a n).length) :
    (s.readBytes a n)[k] = s.readByte (a + k) := by simp [State.readBytes]

/-! ### Byte order -/

theorem hiByte_toNat (w : Word) : (hiByte w).toNat = w.toNat / 256 := by
  have := w.isLt
  simp only [hiByte, BitVec.extractLsb'_toNat, Nat.shiftRight_eq_div_pow]
  omega

theorem loByte_toNat (w : Word) : (loByte w).toNat = w.toNat % 256 := by
  simp [loByte, BitVec.extractLsb'_toNat]

theorem wordOfBytes_toNat (hi lo : Byte) : (wordOfBytes hi lo).toNat = 256 * hi.toNat + lo.toNat := by
  have := lo.isLt
  rw [wordOfBytes, BitVec.toNat_append, Nat.shiftLeft_eq, ← Nat.shiftLeft_eq,
    ← Nat.shiftLeft_add_eq_or_of_lt this, Nat.shiftLeft_eq]
  omega

/-- Storing a word and reading it back, big-endian both ways (20_memory R44). -/
@[simp] theorem wordOfBytes_hi_lo (w : Word) : wordOfBytes (hiByte w) (loByte w) = w := by
  apply BitVec.eq_of_toNat_eq
  rw [wordOfBytes_toNat, hiByte_toNat, loByte_toNat]
  omega

@[simp] theorem wordBytes_length (w : Word) : (wordBytes w).length = 2 := rfl

theorem State.readWord_writeWord (s : State) (a : Nat) (w : Word) (h : Memory.Wf s.cfg s.mem) :
    (s.writeWord a w).readWord a = w := by
  simp [State.readWord, State.writeWord, State.readByte_writeBytes _ _ _ _ h, wordBytes]

end Sys2Proof.Machine
end

