-- ==== Sys2Proof/Laws/Frame.lean ====
section
/-!
SUPPORT. Frames and the blit: the bytes of a built, stored and read frame, one pixel after an inversion, and what a blit of
pairwise different pixels leaves of each pixel and of the collision flag.
-/

namespace Sys2Proof.Machine

/-! ### Bytes of a frame -/

theorem Frame.byte_ofFn (f : Nat → Byte) (k : Nat) (h : k < 256) : Frame.byte (Frame.ofFn f) k = f k := by
  simp [Frame.byte, Frame.ofFn, h]

theorem Frame.byte_outside (fr : Frame) (k : Nat) (h : 256 ≤ k) : Frame.byte fr k = 0 := by
  simp [Frame.byte, Nat.not_lt.mpr h]

theorem Frame.byte_eq_getElem (fr : Frame) (k : Nat) (h : k < 256) : Frame.byte fr k = fr[k] := by
  simp [Frame.byte, h]

/-- Frames with the same bytes are the same. -/
theorem Frame.ext_byte (f g : Frame) (h : ∀ k, k < 256 → Frame.byte f k = Frame.byte g k) : f = g := by
  apply Vector.ext
  intro k hk
  have := h k hk
  rwa [Frame.byte_eq_getElem f k hk, Frame.byte_eq_getElem g k hk] at this

theorem Frame.byte_setByte (fr : Frame) (k j : Nat) (b : Byte) (h : k < 256) :
    Frame.byte (Frame.setByte fr k b) j = if j = k then b else Frame.byte fr j := by
  by_cases hj : j < 256
  · rw [Frame.byte_eq_getElem _ _ hj, Frame.setByte, Vector.getElem_setIfInBounds]
    by_cases e : j = k
    · simp [e]
    · simp [e, Ne.symm e, Frame.byte_eq_getElem _ _ hj]
  · rw [Frame.byte_outside _ _ (by omega), Frame.byte_outside _ _ (by omega), if_neg (by omega)]

/-- The display blend, byte by byte (43 R146). -/
theorem byte_blend (f g : Frame) (k : Nat) (h : k < 256) :
    Frame.byte (blend f g) k = Frame.byte f k ||| Frame.byte g k := by rw [blend, Frame.byte_ofFn _ _ h]

/-! ### A frame in memory -/

theorem State.frameAt_byte (s : State) (base k : Nat) (h : k < 256) :
    Frame.byte (s.frameAt base) k = s.readByte (base + k) := by rw [State.frameAt, Frame.byte_ofFn _ _ h]

/-- Reading memory after a whole frame was stored. -/
theorem State.readByte_writeFrame (s : State) (base : Nat) (fr : Frame) (x : Nat) (h : Memory.Wf s.cfg s.mem) :
    (s.writeFrame base fr).readByte x =
      if base ≤ x ∧ x < base + 256 then Frame.byte fr (x - base) else s.readByte x := by
  rw [State.writeFrame, State.readByte_writeBytes _ _ _ _ h]
  have hl : fr.toList.length = 256 := by simp
  by_cases hx : base ≤ x ∧ x < base + 256
  · rw [dif_pos (by omega), if_pos hx, Frame.byte_eq_getElem _ _ (by omega)]
    simp
  · rw [dif_neg (by omega), if_neg hx]

theorem State.writeFrame_wf (s : State) (base : Nat) (fr : Frame) (h : Memory.Wf s.cfg s.mem)
    (hb : base + 256 ≤ s.cfg.memSize) : Memory.Wf s.cfg (s.writeFrame base fr).mem :=
  State.writeBytes_wf s base fr.toList h (by simpa using hb)

/-- CLS stores a whole display frame or nothing there. -/
theorem clearedDisplay_length (s : State) :
    (clearedDisplay s).length = if s.cfg.clsUpdatesDisplay then 256 else 0 := by
  unfold clearedDisplay
  split <;> simp

/-- What CLS stores in the display frame keeps the canonical form. -/
theorem State.writeClearedDisplay_wf (s t : State) (base : Nat) (h : Memory.Wf t.cfg t.mem)
    (hb : base + 256 ≤ t.cfg.memSize) : Memory.Wf t.cfg (t.writeBytes base (clearedDisplay s)).mem :=
  State.writeBytes_wf t base _ h (by rw [clearedDisplay_length]; split <;> omega)

/-- Where the frames of a well-formed configuration lie (00_scope R7), in the 256 bytes that its `FB_LEN` is. -/
theorem frames_of_wf (c : Config) (h : c.Wf) :
    (c.progBase ≤ c.fbAuthBase ∧ c.fbAuthBase + 256 ≤ c.memSize ∧ c.progBase ≤ c.fbDispBase ∧ c.fbDispBase + 256 ≤ c.memSize) ∧
      rangesDisjoint c.stackLimit c.stackBase c.fbAuthBase (c.fbAuthBase + 256) ∧
      rangesDisjoint c.stackLimit c.stackBase c.fbDispBase (c.fbDispBase + 256) ∧
      rangesDisjoint c.fbAuthBase (c.fbAuthBase + 256) c.fbDispBase (c.fbDispBase + 256) := by
  obtain ⟨-, -, -, -, inside, disjoint, -, -, -, ⟨hl, -⟩, -⟩ := h
  exact ⟨hl ▸ inside, hl ▸ disjoint⟩

/-! ### Pixels -/

theorem pixelByte_lt (c r : Nat) (hc : c < 64) (hr : r < 32) : pixelByte c r < 256 := by
  unfold pixelByte
  omega

/-- Two screen pixels share byte and bit only when they are one pixel (43 R141). -/
theorem pixel_unique (c r c' r' : Nat) (hc : c < 64) (hc' : c' < 64)
    (h1 : pixelByte c r = pixelByte c' r') (h2 : pixelBit c = pixelBit c') : c = c' ∧ r = r' := by
  unfold pixelByte at h1
  unfold pixelBit at h2
  omega

/-- One pixel after one inversion (43 R145): the pixel named is inverted, every other one is as before. -/
theorem Frame.pixel_flip (fr : Frame) (c r c' r' : Nat) (hc : c < 64) (hr : r < 32) (hc' : c' < 64) :
    Frame.pixel (Frame.flip fr c r) c' r' = (Frame.pixel fr c' r' ^^ decide (c' = c ∧ r' = r)) := by
  unfold Frame.pixel Frame.flip
  rw [Frame.byte_setByte _ _ _ _ (pixelByte_lt c r hc hr)]
  by_cases h1 : pixelByte c' r' = pixelByte c r
  · rw [if_pos h1, BitVec.getLsbD_xor, BitVec.getLsbD_twoPow, h1]
    congr 1
    have hb : pixelBit c' < 8 := by unfold pixelBit; omega
    have hb' : pixelBit c < 8 := by unfold pixelBit; omega
    by_cases h2 : pixelBit c' = pixelBit c
    · obtain ⟨rfl, rfl⟩ := pixel_unique c' r' c r hc' hc h1 h2
      simp [hb]
    · have : ¬ (c' = c ∧ r' = r) := fun e => h2 (by rw [e.1])
      simp [this, Ne.symm h2]
  · have : ¬ (c' = c ∧ r' = r) := fun e => h1 (by rw [e.1, e.2])
    rw [if_neg h1]
    simp [this]

/-! ### The blit -/

/-- One pixel after a blit: inverted iff it is among the blitted pixels, when no pixel is among them twice (43 R145). -/
theorem pixel_blit (ps : List (Nat × Nat)) (fr : Frame) (col : Bool) (hp : ∀ p ∈ ps, p.1 < 64 ∧ p.2 < 32) (hn : ps.Nodup)
    (c r : Nat) (hc : c < 64) :
    Frame.pixel (blit fr col ps).1 c r = (Frame.pixel fr c r ^^ decide ((c, r) ∈ ps)) := by
  induction ps generalizing fr col with
  | nil => simp [blit]
  | cons p ps ih =>
    obtain ⟨h1, h2⟩ := List.nodup_cons.mp hn
    obtain ⟨hp1, hp2⟩ := hp p (by simp)
    rw [blit, ih _ _ (fun q hq => hp q (by simp [hq])) h2, Frame.pixel_flip _ _ _ _ _ hp1 hp2 hc]
    by_cases e : (c, r) = p
    · subst e
      simp [h1]
    · have : ¬ (c = p.1 ∧ r = p.2) := fun h => e (Prod.ext h.1 h.2)
      simp [e, this]

/-- The collision flag after a blit: set iff it was, or some blitted pixel was lit before it (43 R145). -/
theorem collision_blit (ps : List (Nat × Nat)) (fr : Frame) (col : Bool) (hp : ∀ p ∈ ps, p.1 < 64 ∧ p.2 < 32)
    (hn : ps.Nodup) :
    (blit fr col ps).2 = true ↔ col = true ∨ ∃ p ∈ ps, Frame.pixel fr p.1 p.2 = true := by
  induction ps generalizing fr col with
  | nil => simp [blit]
  | cons p ps ih =>
    obtain ⟨h1, h2⟩ := List.nodup_cons.mp hn
    obtain ⟨hp1, hp2⟩ := hp p (by simp)
    have hps : ∀ q ∈ ps, q.1 < 64 ∧ q.2 < 32 := fun q hq => hp q (by simp [hq])
    have key : ∀ q ∈ ps, Frame.pixel (Frame.flip fr p.1 p.2) q.1 q.2 = Frame.pixel fr q.1 q.2 := by
      intro q hq
      rw [Frame.pixel_flip _ _ _ _ _ hp1 hp2 (hps q hq).1]
      have : ¬ (q.1 = p.1 ∧ q.2 = p.2) := fun h => h1 (by rwa [← Prod.ext h.1 h.2])
      simp [this]
    rw [blit, ih _ _ hps h2]
    simp only [Bool.or_eq_true, List.mem_cons, exists_eq_or_imp, or_assoc]
    refine or_congr_right (or_congr_right ⟨fun ⟨q, hq, h⟩ => ⟨q, hq, by rwa [← key q hq]⟩,
      fun ⟨q, hq, h⟩ => ⟨q, hq, by rwa [key q hq]⟩⟩)

/-! ### The pixels of a sprite, on a screen of `w` columns and `ht` rows -/

theorem mem_rowPixels (w ht x0 y0 : Nat) (row : Byte) (r : Nat) (p : Nat × Nat) :
    p ∈ rowPixels w ht x0 y0 row r ↔
      ∃ c, c < 8 ∧ row.getLsbD (7 - c) = true ∧ p = ((x0 + c) % w, (y0 + r) % ht) := by
  simp only [rowPixels, List.mem_map, List.mem_filter, List.mem_range]
  exact ⟨fun ⟨c, ⟨h1, h2⟩, e⟩ => ⟨c, h1, h2, e.symm⟩, fun ⟨c, h1, h2, e⟩ => ⟨c, ⟨h1, h2⟩, e.symm⟩⟩

/-- A screen pixel is under the sprite iff a set bit of it falls there (43 R144 line 6, R147). -/
theorem mem_spritePixels (w ht x0 y0 r : Nat) (rows : List Byte) (p : Nat × Nat) :
    p ∈ spritePixels w ht x0 y0 r rows ↔
      ∃ k, ∃ h : k < rows.length, ∃ c, c < 8 ∧ (rows[k]).getLsbD (7 - c) = true ∧
        p = ((x0 + c) % w, (y0 + (r + k)) % ht) := by
  induction rows generalizing r with
  | nil => simp [spritePixels]
  | cons row rows ih =>
    rw [spritePixels, List.mem_append, mem_rowPixels, ih]
    constructor
    · rintro (⟨c, h1, h2, e⟩ | ⟨k, hk, c, h1, h2, e⟩)
      · exact ⟨0, by simp, c, h1, by simpa using h2, by simpa using e⟩
      · exact ⟨k + 1, by simpa using hk, c, h1, by simpa using h2, by rw [e, show r + 1 + k = r + (k + 1) by omega]⟩
    · rintro ⟨k, hk, c, h1, h2, e⟩
      cases k with
      | zero => exact .inl ⟨c, h1, by simpa using h2, by simpa using e⟩
      | succ k =>
        exact .inr ⟨k, by simpa using hk, c, h1, by simpa using h2, by rw [e, show r + (k + 1) = r + 1 + k by omega]⟩

theorem spritePixels_onScreen (w ht x0 y0 r : Nat) (rows : List Byte) (p : Nat × Nat) (hw : 0 < w) (hh : 0 < ht)
    (h : p ∈ spritePixels w ht x0 y0 r rows) : p.1 < w ∧ p.2 < ht := by
  obtain ⟨k, hk, c, -, -, rfl⟩ := (mem_spritePixels w ht x0 y0 r rows p).mp h
  exact ⟨Nat.mod_lt _ hw, Nat.mod_lt _ hh⟩

/-- Fewer steps than the screen is long lead to different places, wherever they start. -/
theorem wrapped_inj (m x a b : Nat) (ha : a < m) (hb : b < m) (e : (x + a) % m = (x + b) % m) : a = b := by
  have h : a % m = b % m := Nat.ModEq.add_left_cancel' x e
  rwa [Nat.mod_eq_of_lt ha, Nat.mod_eq_of_lt hb] at h

/-- "Within one DRW no pixel is visited twice" (43 R145): the 8 columns and the rows of a sprite wrap to different ones, when the
screen has at least as many. -/
theorem spritePixels_nodup (w ht x0 y0 r : Nat) (rows : List Byte) (hw : 8 ≤ w) (h : rows.length ≤ ht) :
    (spritePixels w ht x0 y0 r rows).Nodup := by
  induction rows generalizing r with
  | nil => simp [spritePixels]
  | cons row rows ih =>
    simp only [List.length_cons] at h
    rw [spritePixels, List.nodup_append]
    refine ⟨?_, ih _ (by omega), ?_⟩
    · refine List.Nodup.map_on ?_ (List.nodup_range.filter _)
      intro a ha b hb e
      simp only [List.mem_filter, List.mem_range] at ha hb
      exact wrapped_inj w x0 a b (by omega) (by omega) (congrArg Prod.fst e)
    · rintro p hp q hq rfl
      obtain ⟨c, -, -, e⟩ := (mem_rowPixels w ht x0 y0 row r p).mp hp
      obtain ⟨k, hk, c', -, -, e'⟩ := (mem_spritePixels w ht x0 y0 (r + 1) rows p).mp hq
      have e2 : (y0 + r + 0) % ht = (y0 + r + (1 + k)) % ht := by
        rw [show y0 + r + (1 + k) = y0 + (r + 1 + k) by omega]
        exact congrArg Prod.snd (e.symm.trans e')
      have := wrapped_inj ht (y0 + r) 0 (1 + k) (by omega) (by omega) e2
      omega

end Sys2Proof.Machine
end

