-- ==== Sys2Proof/Laws/Outcome.lean ====
section
/-!
SUPPORT. What the shared operations that end a step can answer: taking a failure, attempting an effect, fetching, the step; and
every meaning as one attempt.
-/

namespace Sys2Proof.Machine

/-! ### Failure entry and attempts -/

theorem raise_eq (cause : Fault) (s : State) : raise cause s = .next (failedWith cause s) := rfl

@[simp] theorem attempt_none (s effect : State) : attempt s none effect = .next effect := rfl

@[simp] theorem attempt_some (s : State) (cause : Fault) (effect : State) :
    attempt s (some cause) effect = .next (failedWith cause s) := rfl

/-- All an attempt can answer: the failure's entry or the effect, never a stop. -/
theorem attempt_eq_next (s : State) (failure : Option Fault) (effect t : State) :
    attempt s failure effect = .next t ↔
      (∃ cause, failure = some cause ∧ t = failedWith cause s) ∨ (failure = none ∧ t = effect) := by
  cases failure with
  | none => simp [eq_comm]
  | some cause => simp [eq_comm]

theorem attempt_next (s : State) (failure : Option Fault) (effect : State) : ∃ t, attempt s failure effect = .next t := by
  cases failure
  · exact ⟨effect, rfl⟩
  · exact ⟨_, rfl⟩

/-! ### The failure checks -/

theorem dataFault_eq_none (s : State) (addr n : Nat) : dataFault s addr n = none ↔ addr + n ≤ s.cfg.memSize := by
  unfold dataFault
  split <;> simp_all

theorem dataFault_eq_some (s : State) (addr n : Nat) (cause : Fault) :
    dataFault s addr n = some cause ↔
      s.cfg.memSize < addr + n ∧ cause = .memoryOutOfBounds .data (max addr s.cfg.memSize) := by
  unfold dataFault
  split
  · simp
    omega
  · simp [eq_comm]
    omega

theorem operandFault_eq_none (kind : OperandKind) (value : Byte) : operandFault kind value = none ↔ value.toNat ≤ 15 := by
  unfold operandFault
  split <;> simp <;> omega

theorem operandFault_eq_some (kind : OperandKind) (value : Byte) (cause : Fault) :
    operandFault kind value = some cause ↔ 15 < value.toNat ∧ cause = .operandOutOfRange kind value := by
  unfold operandFault
  split
  · simp [eq_comm]
    omega
  · simp
    omega

/-- A push in bounds of a machine that keeps its invariant meets no failure (20_memory R48). -/
theorem pushFault_eq_none (s : State) (hc : s.cfg.Wf) (h1 : s.cfg.stackLimit + 2 ≤ s.sp.toNat)
    (h2 : s.sp.toNat ≤ s.cfg.stackBase) : pushFault s = none := by
  have := hc.2.2.1.2.2
  rw [pushFault, if_neg (by omega), dataFault_eq_none]
  omega

theorem pushFault_full (s : State) (h : s.sp.toNat < s.cfg.stackLimit + 2) :
    pushFault s = some (.stackBounds .onCall) := by rw [pushFault, if_pos h]

/-- A pop of a stack that holds an entry meets no failure (20_memory R48). -/
theorem popFault_eq_none (s : State) (hc : s.cfg.Wf) (h : s.sp.toNat + 2 ≤ s.cfg.stackBase) : popFault s = none := by
  have := hc.2.2.1.2.2
  rw [popFault, if_neg (by omega), dataFault_eq_none]
  omega

theorem popFault_empty (s : State) (h : s.cfg.stackBase < s.sp.toNat + 2) :
    popFault s = some (.stackBounds .onReturn) := by rw [popFault, if_pos (by omega)]

/-! ### Fetch and step -/

theorem fetchFault_eq_none (s : State) :
    fetchFault s = none ↔ (s.cfg.strictAlign = true → s.pc.toNat % 2 = 0) ∧ s.pc.toNat + 2 ≤ s.cfg.memSize := by
  unfold fetchFault
  by_cases h1 : s.cfg.strictAlign = true ∧ s.pc.toNat % 2 = 1
  · rw [if_pos h1]
    simp [h1.1]
    omega
  · rw [if_neg h1]
    by_cases h2 : s.pc.toNat + 2 > s.cfg.memSize
    · rw [if_pos h2]
      simp
      omega
    · rw [if_neg h2]
      simp only [true_iff]
      refine ⟨fun h => ?_, by omega⟩
      have : ¬ s.pc.toNat % 2 = 1 := fun e => h1 ⟨h, e⟩
      omega

theorem fetchInstr_ok (s : State) (i : Instr) :
    fetchInstr s = .ok i ↔ fetchFault s = none ∧ decodeWord (fetchWord s) = .ok i := by
  unfold fetchInstr
  split
  · simp_all
  · split <;> simp_all

/-- All a step can answer (40 R90): a refused configuration, the latched failure, the entry of a failure met in fetch or decode,
or what the fetched instruction answers. -/
theorem step_cases (s : State) :
    (¬ s.cfg.Wf ∧ step s = .refused .illFormedConfig) ∨
    (s.cfg.Wf ∧ ∃ cause, s.fault = some cause ∧ step s = .fault cause) ∨
    (s.cfg.Wf ∧ s.fault = none ∧ ∃ cause, fetchInstr s = .error cause ∧ step s = .next (failedWith cause s)) ∨
    (s.cfg.Wf ∧ s.fault = none ∧ ∃ i, fetchInstr s = .ok i ∧ step s = exec i s) := by
  unfold step
  by_cases hc : s.cfg.Wf
  · simp only [if_pos hc]
    cases hf : s.fault with
    | some cause => exact .inr (.inl ⟨hc, cause, rfl, rfl⟩)
    | none =>
      cases hi : fetchInstr s with
      | error cause => exact .inr (.inr (.inl ⟨hc, rfl, cause, rfl, rfl⟩))
      | ok i => exact .inr (.inr (.inr ⟨hc, rfl, i, rfl, rfl⟩))
  · exact .inl ⟨hc, by rw [if_neg hc]⟩

/-- All a step that answers a next state has done: the entry of a fetch or decode failure, or the fetched instruction. -/
theorem step_next (s t : State) (h : step s = .next t) :
    s.cfg.Wf ∧ s.fault = none ∧
      ((∃ cause, fetchInstr s = .error cause ∧ t = failedWith cause s) ∨ ∃ i, fetchInstr s = .ok i ∧ exec i s = .next t) := by
  rcases step_cases s with ⟨-, e⟩ | ⟨-, cause, -, e⟩ | ⟨hc, hf, cause, hi, e⟩ | ⟨hc, hf, i, hi, e⟩
  · rw [e] at h
    exact nomatch h
  · rw [e] at h
    exact nomatch h
  · rw [e] at h
    exact ⟨hc, hf, .inl ⟨cause, hi, (Host.Outcome.next.inj h).symm⟩⟩
  · exact ⟨hc, hf, .inr ⟨i, hi, e ▸ h⟩⟩

/-- The step of an unlatched machine whose fetch gives an instruction is that instruction. -/
theorem step_of_fetch (s : State) (i : Instr) (hc : s.cfg.Wf) (hf : s.fault = none) (hi : fetchInstr s = .ok i) :
    step s = exec i s := by
  rw [step, if_pos hc, hf]
  simp only [hi]

theorem step_of_fetch_error (s : State) (cause : Fault) (hc : s.cfg.Wf) (hf : s.fault = none)
    (hi : fetchInstr s = .error cause) : step s = .next (failedWith cause s) := by
  rw [step, if_pos hc, hf]
  simp only [hi]
  rfl

theorem step_latched (s : State) (cause : Fault) (hc : s.cfg.Wf) (hf : s.fault = some cause) : step s = .fault cause := by
  rw [step, if_pos hc, hf]

/-! ### Fx0A -/

theorem leastKey_eq_none (s : State) : leastKey s = none ↔ ∀ k, s.keyDown k = false := by
  simp [leastKey]

/-- The key Fx0A takes is down, and no lower one is (44 R162). -/
theorem leastKey_eq_some (s : State) (k : Reg) (h : leastKey s = some k) :
    s.keyDown k = true ∧ ∀ j, j < k → s.keyDown j = false := by
  unfold leastKey at h
  obtain ⟨h1, as, bs, h2, h3⟩ := List.find?_eq_some_iff_append.mp h
  refine ⟨h1, fun j hj => ?_⟩
  have hs : (as ++ k :: bs).Pairwise (· < ·) := h2 ▸ List.pairwise_lt_finRange 16
  have hm : j ∈ as ++ k :: bs := h2 ▸ List.mem_finRange j
  rcases List.mem_append.mp hm with ha | hb
  · simpa using h3 j ha
  · rcases List.mem_cons.mp hb with rfl | hb
    · exact absurd hj (lt_irrefl _)
    · exact absurd hj (not_lt.mpr (List.rel_of_pairwise_cons (List.pairwise_append.mp hs).2.1 hb).le)

/-! ### Every instruction is one attempt -/

theorem execLdVxK_attempt (x : Reg) (s : State) :
    ∃ failure effect, execLdVxK x s = attempt s failure effect ∧ effect.fault = s.fault ∧ effect.cfg = s.cfg := by
  unfold execLdVxK
  split
  · unfold waitAnyKey
    split
    · exact ⟨_, _, rfl, rfl, rfl⟩
    · exact ⟨_, _, rfl, rfl, rfl⟩
  · refine ⟨_, _, rfl, ?_⟩
    split <;> exact ⟨rfl, rfl⟩

/-- Every instruction is one attempt: its failure checks, then an effect that touches neither the latch nor the configuration
(60 R176; 40 R90 line 9). -/
theorem exec_attempt (i : Instr) (s : State) :
    ∃ failure effect, exec i s = attempt s failure effect ∧ effect.fault = s.fault ∧ effect.cfg = s.cfg := by
  cases i with
  | ldVxK x => exact execLdVxK_attempt x s
  | ldVxMem x =>
    simp only [exec, execLdVxMem]
    refine ⟨_, _, rfl, ?_⟩
    rw [State.setRegs_frame]
    exact ⟨rfl, rfl⟩
  | seByte | sneByte | seReg | sneReg | skp | sknp =>
    simp only [exec, execSeByte, execSneByte, execSeReg, execSneReg, execSkp, execSknp]
    refine ⟨_, _, rfl, ?_⟩
    rw [State.skipIf_eq]
    exact ⟨rfl, rfl⟩
  | _ =>
    simp only [exec, execCls, execRet, execJp, execCall, execLdByte, execAddByte, execLdReg,
      execOrReg, execAndReg, execXorReg, execAddReg, execSub, execShr, execSubn, execShl, execLdI,
      execJpV0, execRnd, execDrw, execLdVxDt, execLdDtVx, execLdStVx, execAddI, execLdF, execLdB,
      execLdMemVx]
    exact ⟨_, _, rfl, by exact ⟨rfl, rfl⟩⟩

/-- Every instruction answers a next state, its effect or a failure's entry, and never stops (60 R170: "every handler either
completes its defined effect or propagates a specific failure outward"). -/
theorem exec_next (i : Instr) (s : State) : ∃ t, exec i s = .next t := by
  obtain ⟨failure, effect, h, -⟩ := exec_attempt i s
  exact h ▸ attempt_next s failure effect

/-- An attempt of an unlatched machine fails exactly by the failure it meets. -/
theorem attempt_fails (s : State) (failure : Option Fault) (effect : State) (cause : Fault) (h : s.fault = none)
    (he : effect.fault = s.fault) : attempt s failure effect = .next (failedWith cause s) ↔ failure = some cause := by
  rw [attempt_eq_next]
  constructor
  · rintro (⟨c, h', e⟩ | ⟨h', e⟩)
    · have := congrArg State.fault e
      cases this
      exact h'
    · have := congrArg State.fault e
      rw [he, h] at this
      cases this
  · rintro rfl
    exact .inl ⟨cause, rfl, rfl⟩

/-! ### Operand forms -/

@[simp] theorem regBytes_length (s : State) (x : Reg) : (regBytes s x).length = x.val + 1 := by simp [regBytes]

theorem regBytes_getElem (s : State) (x : Reg) (k : Nat) (h : k < (regBytes s x).length) :
    (regBytes s x)[k] = s.reg (Fin.ofNat 16 k) := by simp [regBytes]

@[simp] theorem bcdDigits_length (b : Byte) : (bcdDigits b).length = 3 := rfl

theorem keyOf_val (value : Byte) (h : value.toNat ≤ 15) : (keyOf value).val = value.toNat := by
  simp [keyOf, Fin.ofNat]
  omega

theorem zext16_toNat (nnn : Addr12) : (zext16 nnn).toNat = nnn.toNat := by
  have := nnn.isLt
  simp [zext16]
  omega

theorem zextByte_toNat (b : Byte) : (zextByte b).toNat = b.toNat := by
  have := b.isLt
  simp [zextByte]
  omega

end Sys2Proof.Machine
end

