-- ==== Sys2Proof/Laws/PerInstr.lean ====
section
/-!
SUPPORT. Per instruction: its encoding satisfies its own row of the opcode table, "`w & mask = match`" (30_encoding R75).
-/

namespace Sys2Proof.Laws.EncodesItsRow

/-- The word of an instruction satisfies the (match, mask) row the instruction stands in (30_encoding R75). -/
def Statement (i : Instr) : Prop := rowMatches (encode i) (rowOf i) = true

theorem cls : Statement .cls := rfl

theorem ret : Statement .ret := rfl

theorem jp (nnn : Addr12) : Statement (.jp nnn) := by
  rw [Statement, rowMatches, beq_iff_eq, encode]
  show _ &&& 0xF000#16 = 0x1000#16
  rw [nnn_nibbles, and_mask_op]
  rfl

theorem call (nnn : Addr12) : Statement (.call nnn) := by
  rw [Statement, rowMatches, beq_iff_eq, encode]
  show _ &&& 0xF000#16 = 0x2000#16
  rw [nnn_nibbles, and_mask_op]
  rfl

theorem seByte (x : Reg) (kk : Byte) : Statement (.seByte x kk) := by
  rw [Statement, rowMatches, beq_iff_eq, encode]
  show _ &&& 0xF000#16 = 0x3000#16
  rw [xkk_nibbles, and_mask_op]
  rfl

theorem sneByte (x : Reg) (kk : Byte) : Statement (.sneByte x kk) := by
  rw [Statement, rowMatches, beq_iff_eq, encode]
  show _ &&& 0xF000#16 = 0x4000#16
  rw [xkk_nibbles, and_mask_op]
  rfl

theorem seReg (x y : Reg) : Statement (.seReg x y) := by
  rw [Statement, rowMatches, beq_iff_eq, encode]
  show _ &&& 0xF00F#16 = 0x5000#16
  rw [and_mask_op_n]
  rfl

theorem ldByte (x : Reg) (kk : Byte) : Statement (.ldByte x kk) := by
  rw [Statement, rowMatches, beq_iff_eq, encode]
  show _ &&& 0xF000#16 = 0x6000#16
  rw [xkk_nibbles, and_mask_op]
  rfl

theorem addByte (x : Reg) (kk : Byte) : Statement (.addByte x kk) := by
  rw [Statement, rowMatches, beq_iff_eq, encode]
  show _ &&& 0xF000#16 = 0x7000#16
  rw [xkk_nibbles, and_mask_op]
  rfl

theorem ldReg (x y : Reg) : Statement (.ldReg x y) := by
  rw [Statement, rowMatches, beq_iff_eq, encode]
  show _ &&& 0xF00F#16 = 0x8000#16
  rw [and_mask_op_n]
  rfl

theorem orReg (x y : Reg) : Statement (.orReg x y) := by
  rw [Statement, rowMatches, beq_iff_eq, encode]
  show _ &&& 0xF00F#16 = 0x8001#16
  rw [and_mask_op_n]
  rfl

theorem andReg (x y : Reg) : Statement (.andReg x y) := by
  rw [Statement, rowMatches, beq_iff_eq, encode]
  show _ &&& 0xF00F#16 = 0x8002#16
  rw [and_mask_op_n]
  rfl

theorem xorReg (x y : Reg) : Statement (.xorReg x y) := by
  rw [Statement, rowMatches, beq_iff_eq, encode]
  show _ &&& 0xF00F#16 = 0x8003#16
  rw [and_mask_op_n]
  rfl

theorem addReg (x y : Reg) : Statement (.addReg x y) := by
  rw [Statement, rowMatches, beq_iff_eq, encode]
  show _ &&& 0xF00F#16 = 0x8004#16
  rw [and_mask_op_n]
  rfl

theorem sub (x y : Reg) : Statement (.sub x y) := by
  rw [Statement, rowMatches, beq_iff_eq, encode]
  show _ &&& 0xF00F#16 = 0x8005#16
  rw [and_mask_op_n]
  rfl

theorem shr (x y : Reg) : Statement (.shr x y) := by
  rw [Statement, rowMatches, beq_iff_eq, encode]
  show _ &&& 0xF00F#16 = 0x8006#16
  rw [and_mask_op_n]
  rfl

theorem subn (x y : Reg) : Statement (.subn x y) := by
  rw [Statement, rowMatches, beq_iff_eq, encode]
  show _ &&& 0xF00F#16 = 0x8007#16
  rw [and_mask_op_n]
  rfl

theorem shl (x y : Reg) : Statement (.shl x y) := by
  rw [Statement, rowMatches, beq_iff_eq, encode]
  show _ &&& 0xF00F#16 = 0x800E#16
  rw [and_mask_op_n]
  rfl

theorem sneReg (x y : Reg) : Statement (.sneReg x y) := by
  rw [Statement, rowMatches, beq_iff_eq, encode]
  show _ &&& 0xF00F#16 = 0x9000#16
  rw [and_mask_op_n]
  rfl

theorem ldI (nnn : Addr12) : Statement (.ldI nnn) := by
  rw [Statement, rowMatches, beq_iff_eq, encode]
  show _ &&& 0xF000#16 = 0xA000#16
  rw [nnn_nibbles, and_mask_op]
  rfl

theorem jpV0 (nnn : Addr12) : Statement (.jpV0 nnn) := by
  rw [Statement, rowMatches, beq_iff_eq, encode]
  show _ &&& 0xF000#16 = 0xB000#16
  rw [nnn_nibbles, and_mask_op]
  rfl

theorem rnd (x : Reg) (kk : Byte) : Statement (.rnd x kk) := by
  rw [Statement, rowMatches, beq_iff_eq, encode]
  show _ &&& 0xF000#16 = 0xC000#16
  rw [xkk_nibbles, and_mask_op]
  rfl

theorem drw (x y : Reg) (n : Nibble) : Statement (.drw x y n) := by
  rw [Statement, rowMatches, beq_iff_eq, encode]
  show _ &&& 0xF000#16 = 0xD000#16
  rw [and_mask_op]
  rfl

theorem skp (x : Reg) : Statement (.skp x) := by
  rw [Statement, rowMatches, beq_iff_eq, encode]
  show _ &&& 0xF0FF#16 = 0xE09E#16
  rw [xkk_nibbles, and_mask_op_kk]
  rfl

theorem sknp (x : Reg) : Statement (.sknp x) := by
  rw [Statement, rowMatches, beq_iff_eq, encode]
  show _ &&& 0xF0FF#16 = 0xE0A1#16
  rw [xkk_nibbles, and_mask_op_kk]
  rfl

theorem ldVxDt (x : Reg) : Statement (.ldVxDt x) := by
  rw [Statement, rowMatches, beq_iff_eq, encode]
  show _ &&& 0xF0FF#16 = 0xF007#16
  rw [xkk_nibbles, and_mask_op_kk]
  rfl

theorem ldVxK (x : Reg) : Statement (.ldVxK x) := by
  rw [Statement, rowMatches, beq_iff_eq, encode]
  show _ &&& 0xF0FF#16 = 0xF00A#16
  rw [xkk_nibbles, and_mask_op_kk]
  rfl

theorem ldDtVx (x : Reg) : Statement (.ldDtVx x) := by
  rw [Statement, rowMatches, beq_iff_eq, encode]
  show _ &&& 0xF0FF#16 = 0xF015#16
  rw [xkk_nibbles, and_mask_op_kk]
  rfl

theorem ldStVx (x : Reg) : Statement (.ldStVx x) := by
  rw [Statement, rowMatches, beq_iff_eq, encode]
  show _ &&& 0xF0FF#16 = 0xF018#16
  rw [xkk_nibbles, and_mask_op_kk]
  rfl

theorem addI (x : Reg) : Statement (.addI x) := by
  rw [Statement, rowMatches, beq_iff_eq, encode]
  show _ &&& 0xF0FF#16 = 0xF01E#16
  rw [xkk_nibbles, and_mask_op_kk]
  rfl

theorem ldF (x : Reg) : Statement (.ldF x) := by
  rw [Statement, rowMatches, beq_iff_eq, encode]
  show _ &&& 0xF0FF#16 = 0xF029#16
  rw [xkk_nibbles, and_mask_op_kk]
  rfl

theorem ldB (x : Reg) : Statement (.ldB x) := by
  rw [Statement, rowMatches, beq_iff_eq, encode]
  show _ &&& 0xF0FF#16 = 0xF033#16
  rw [xkk_nibbles, and_mask_op_kk]
  rfl

theorem ldMemVx (x : Reg) : Statement (.ldMemVx x) := by
  rw [Statement, rowMatches, beq_iff_eq, encode]
  show _ &&& 0xF0FF#16 = 0xF055#16
  rw [xkk_nibbles, and_mask_op_kk]
  rfl

theorem ldVxMem (x : Reg) : Statement (.ldVxMem x) := by
  rw [Statement, rowMatches, beq_iff_eq, encode]
  show _ &&& 0xF0FF#16 = 0xF065#16
  rw [xkk_nibbles, and_mask_op_kk]
  rfl

end Sys2Proof.Laws.EncodesItsRow
end

