-- ==== Sys2Proof/Tests/Slice0.lean ====
section
/-!
SUPPORT. Tests and witnesses. Part 1: ill-formed configurations and words are refused. Part 2: words written out from 30_encoding
R72 and R75 decode to the instruction they stand for, each constructor once. Part 3: single steps, at most two an instruction, with
the expected values of spec/95_test_vectors.md (its row is named). Part 4: for each statement with hypotheses, concrete states and
operands that meet them, one for each clause, at the ends of the clause's range where it has a range.
-/

open Sys2Proof
open Sys2Proof.Machine
open Sys2Proof.Claims

namespace Sys2Proof.Tests

set_option Elab.async false

/-! ## Part 1: ill-formed configurations are refused, check by check (00_scope R7) -/

/-- The outcome of a step of a machine whose configuration is `c` and whose state is otherwise that after RESET. -/
def refusedBy (c : Config) : Bool :=
  match step (State.resetOf c 0) with
  | .refused .illFormedConfig => true
  | _ => false

theorem test_standard_config_accepted : standardConfig.Wf ∧ refusedBy standardConfig = false := by decide +kernel

def tooLarge : Config := { standardConfig with memSize := 65537 }
theorem test_wf_sizeFits : ¬ tooLarge.sizeFits ∧ refusedBy tooLarge = true := by decide +kernel

def fontOverProgram : Config := { standardConfig with fontBase := 0x1B1 }
theorem test_wf_fontFits : ¬ fontOverProgram.fontFits ∧ refusedBy fontOverProgram = true := by decide +kernel

def emptyStack : Config := { standardConfig with stackLimit := 0xE00 }
theorem test_wf_stackOrdered : ¬ emptyStack.stackOrdered ∧ refusedBy emptyStack = true := by decide +kernel

def oddStack : Config := { standardConfig with stackLimit := 0xDE1 }
theorem test_wf_stackEven : ¬ oddStack.stackEven ∧ refusedBy oddStack = true := by decide +kernel

def frameOutside : Config := { standardConfig with fbDispBase := 0xF01 }
theorem test_wf_framesInside : ¬ frameOutside.framesInside ∧ refusedBy frameOutside = true := by decide +kernel

def framesOverlap : Config := { standardConfig with fbDispBase := 0xEFF }
theorem test_wf_tailDisjoint : ¬ framesOverlap.tailDisjoint ∧ refusedBy framesOverlap = true := by decide +kernel

def tooWide : Config := { standardConfig with memSize := 65534 }
theorem test_wf_widthsFit : ¬ tooWide.widthsFit ∧ refusedBy tooWide = true := by decide +kernel

/-- One configuration for each parameter that the source (or decision D11) fixes, with another value in it. -/
def wrongSource : List Config :=
  [{ standardConfig with nReg := 32 }, { standardConfig with regW := 16 }, { standardConfig with iW := 12 },
   { standardConfig with pcW := 12 }, { standardConfig with spW := 8 }, { standardConfig with fontStride := 4 },
   { standardConfig with fontCount := 15 }] ++
  [{ standardConfig with fbLen := 255 }, { standardConfig with screenW := 128 }, { standardConfig with screenH := 64 },
   { standardConfig with nKeys := 17 }]
theorem test_wf_sourceFixed : ∀ c ∈ wrongSource, ¬ c.sourceFixed ∧ refusedBy c = true := by decide +kernel

/-- The two derived parameters have the values of R6's table. -/
theorem test_derived_parameters : standardConfig.stackEntries = 16 ∧ standardConfig.progMax = 3040 := by decide

/-- Every illegal word of 95_test_vectors table H rows H3, H7, H10, H12, H14 and table C row C37. -/
def illegalWords : List Word :=
  [0x00E1, 0x00EF, 0x00FE, 0x0000, 0x0FFF, 0x01E0, 0x8AB8, 0x8AB9, 0x8ABA, 0x8ABB, 0x8ABC, 0x8ABD, 0x8ABF] ++
  [0xEA9F, 0xEAA0, 0xEA00, 0xEAFF, 0xFA64, 0xFA66, 0xFA00, 0xFA75, 0xFA85, 0xFA30, 0x5AB1, 0x9AB1, 0x5ABF] ++
  [0x8128, 0x812F, 0x9121, 0xE19F, 0xE0A2, 0xF100, 0xF166, 0xFFFF]

theorem test_illegal_words_refused :
    illegalWords.all (fun w => decodeWord w == .error (.illegal w) && !legalWord w) = true := by decide +kernel

/-- Two bytes are needed (30_encoding R70). -/
theorem test_truncated_refused : decodeBytes [0x00] = .error .truncated := by decide

/-! ## Part 2: decoding, a word written out for each constructor (30_encoding R75) -/

/-- The decoder reads `i` from the two bytes, and the encoder gives them back. -/
def reads (hi lo : Byte) (i : Instr) : Bool := decodeBytes [hi, lo] == .ok (i, []) && encodeBytes i == [hi, lo]

theorem test_decode_cls : reads 0x00 0xE0 .cls = true := by decide
theorem test_decode_ret : reads 0x00 0xEE .ret = true := by decide
theorem test_decode_jp : reads 0x1A 0xBC (.jp 0xABC) = true := by decide
theorem test_decode_call : reads 0x2A 0xBC (.call 0xABC) = true := by decide
theorem test_decode_seByte : reads 0x33 0x2A (.seByte 3 0x2A) = true := by decide
theorem test_decode_sneByte : reads 0x43 0x2A (.sneByte 3 0x2A) = true := by decide
theorem test_decode_seReg : reads 0x5A 0xB0 (.seReg 10 11) = true := by decide
theorem test_decode_ldByte : reads 0x6A 0x42 (.ldByte 10 0x42) = true := by decide
theorem test_decode_addByte : reads 0x71 0x20 (.addByte 1 0x20) = true := by decide
theorem test_decode_ldReg : reads 0x81 0x20 (.ldReg 1 2) = true := by decide
theorem test_decode_orReg : reads 0x81 0x21 (.orReg 1 2) = true := by decide
theorem test_decode_andReg : reads 0x81 0x22 (.andReg 1 2) = true := by decide
theorem test_decode_xorReg : reads 0x81 0x23 (.xorReg 1 2) = true := by decide
theorem test_decode_addReg : reads 0x8A 0xB4 (.addReg 10 11) = true := by decide
theorem test_decode_sub : reads 0x81 0x25 (.sub 1 2) = true := by decide
theorem test_decode_shr : reads 0x81 0x26 (.shr 1 2) = true := by decide
theorem test_decode_subn : reads 0x81 0x27 (.subn 1 2) = true := by decide
theorem test_decode_shl : reads 0x8A 0xBE (.shl 10 11) = true := by decide
theorem test_decode_sneReg : reads 0x91 0x20 (.sneReg 1 2) = true := by decide
theorem test_decode_ldI : reads 0xA2 0xF0 (.ldI 0x2F0) = true := by decide
theorem test_decode_jpV0 : reads 0xB3 0x01 (.jpV0 0x301) = true := by decide
theorem test_decode_rnd : reads 0xC3 0x0F (.rnd 3 0x0F) = true := by decide
theorem test_decode_drw : reads 0xD1 0x2F (.drw 1 2 15) = true := by decide
theorem test_decode_skp : reads 0xEA 0x9E (.skp 10) = true := by decide
theorem test_decode_sknp : reads 0xE2 0xA1 (.sknp 2) = true := by decide
theorem test_decode_ldVxDt : reads 0xF5 0x07 (.ldVxDt 5) = true := by decide
theorem test_decode_ldVxK : reads 0xF3 0x0A (.ldVxK 3) = true := by decide
theorem test_decode_ldDtVx : reads 0xF5 0x15 (.ldDtVx 5) = true := by decide
theorem test_decode_ldStVx : reads 0xF5 0x18 (.ldStVx 5) = true := by decide
theorem test_decode_addI : reads 0xF2 0x1E (.addI 2) = true := by decide
theorem test_decode_ldF : reads 0xF4 0x29 (.ldF 4) = true := by decide
theorem test_decode_ldB : reads 0xF7 0x33 (.ldB 7) = true := by decide
theorem test_decode_ldMemVx : reads 0xF2 0x55 (.ldMemVx 2) = true := by decide
theorem test_decode_ldVxMem : reads 0xFA 0x65 (.ldVxMem 10) = true := by decide

/-- The opcode table numbers bit 0 as the least significant bit of the word (spec/opcode_table.json). -/
theorem test_decodeTableWord : decodeTableWord 16 0x8AB4 = some (.addReg 10 11) ∧ decodeTableWord 16 0x8AB8 = none := by decide

/-! ## Part 3: single steps -/

/-- The reset state with some registers set. -/
def regs (l : List (Reg × Byte)) : State := l.foldl (fun s p => s.setReg p.1 p.2) State.reset

/-- One step on the state with the word placed at `PC`: the state it leaves, if any. -/
def run (word : Nat) (s : State) : Option State :=
  match step (s.withFetchWord 16 word) with
  | .next t => some t
  | _ => none

/-- A register, VF and `PC` of the state a step leaves. -/
def seen (r : Reg) (t : State) : Byte × Byte × Word := (t.reg r, t.reg 15, t.pc)

-- Table A.
theorem test_ldByte_A1 : (run 0x6A42 State.reset).map (seen 10) = some (0x42, 0x00, 0x202) := by decide +kernel
theorem test_addByte_A3 : (run 0x7120 (regs [(1, 0xF0), (15, 7)])).map (seen 1) = some (0x10, 0x07, 0x202) := by decide +kernel
theorem test_addByte_A6 : (run 0x7F01 (regs [(15, 0xFF)])).map (seen 15) = some (0x00, 0x00, 0x202) := by decide +kernel
theorem test_ldReg_A7 : (run 0x8120 (regs [(1, 1), (2, 9)])).map (seen 1) = some (0x09, 0x00, 0x202) := by decide +kernel
theorem test_orReg_A9 : (run 0x8121 (regs [(1, 0xF0), (2, 0x0F), (15, 1)])).map (seen 1) = some (0xFF, 1, 0x202) := by
  decide +kernel
theorem test_andReg_A10 : (run 0x8122 (regs [(1, 0xF3), (2, 0x3F), (15, 1)])).map (seen 1) = some (0x33, 1, 0x202) := by
  decide +kernel
theorem test_xorReg_A11 : (run 0x8123 (regs [(1, 0xFF), (2, 0x0F), (15, 1)])).map (seen 1) = some (0xF0, 1, 0x202) := by
  decide +kernel
theorem test_addReg_A13 : (run 0x8124 (regs [(1, 0xC8), (2, 0x64)])).map (seen 1) = some (0x2C, 1, 0x202) := by decide +kernel
theorem test_addReg_A16 : (run 0x8124 (regs [(1, 0x80), (2, 0x7F), (15, 1)])).map (seen 1) = some (0xFF, 0, 0x202) := by
  decide +kernel
theorem test_sub_A23 : (run 0x8125 (regs [(1, 0x10), (2, 0x20)])).map (seen 1) = some (0xF0, 0, 0x202) := by decide +kernel
theorem test_sub_A30 : (run 0x8F25 (regs [(15, 3), (2, 5)])).map (seen 15) = some (0, 0, 0x202) := by decide +kernel
theorem test_subn_A31 : (run 0x8127 (regs [(1, 0x10), (2, 0x20)])).map (seen 1) = some (0x10, 1, 0x202) := by decide +kernel
theorem test_subn_A33 : (run 0x8127 (regs [(1, 0x33), (2, 0x33)])).map (seen 1) = some (0x00, 1, 0x202) := by decide +kernel

-- Table B: the left column with `SHIFT_QUIRK` true, the right one with it false.
theorem test_shr_B1 : (run 0x8126 (regs [(1, 0x05), (2, 0xF0)])).map (seen 1) = some (0x02, 1, 0x202) := by decide +kernel
theorem test_shr_B1_false :
    (run 0x8126 { regs [(1, 0x05), (2, 0xF0)] with shiftQuirk := false }).map (seen 1) = some (0x78, 0, 0x202) := by
  decide +kernel
theorem test_shl_B9 : (run 0x812E (regs [(1, 0x80), (2, 0x40)])).map (seen 1) = some (0x00, 1, 0x202) := by decide +kernel
theorem test_shl_B9_false :
    (run 0x812E { regs [(1, 0x80), (2, 0x40)] with shiftQuirk := false }).map (seen 1) = some (0x80, 0, 0x202) := by
  decide +kernel
/-- B15: `kk` = 0 forces 0 whatever is drawn; one byte is drawn. -/
theorem test_rnd_B15 (s : State) :
    exec (.rnd 3 0x00) s = .next { (s.setReg 3 0).advance with draws := s.draws + 1 } := by
  simp [exec, execRnd, attempt, State.setReg, State.advance, State.drawn]

-- Table C.
theorem test_jp_C3 : (run 0x1FFF State.reset).map (·.pc) = some 0xFFF := by decide +kernel
theorem test_call_C6 :
    (run 0x2ABC { State.reset with sp := 0xDE2 }).map (fun t => (t.sp, t.readByte 0xDE0, t.readByte 0xDE1, t.pc)) =
      some (0xDE0, 0x02, 0x02, 0xABC) := by decide +kernel
theorem test_call_C7 :
    (run 0x2ABC { State.reset with sp := 0xDE0 }).map (fun t => (t.fault, t.sp, t.readByte 0xDDE, t.pc)) =
      some (some (.stackBounds .onCall), 0xDE0, 0x00, 0x200) := by decide +kernel
theorem test_ret_C11 :
    (run 0x00EE ({ State.reset with sp := 0xDE0 }.writeBytes 0xDE0 [0x12, 0x35])).map (fun t => (t.pc, t.sp)) =
      some (0x1235, 0xDE2) := by decide +kernel
theorem test_ret_C10 : (run 0x00EE State.reset).map (fun t => (t.fault, t.pc)) =
    some (some (.stackBounds .onReturn), 0x200) := by decide +kernel
theorem test_jpV0_C13 : (run 0xBFFF (regs [(0, 0xFF)])).map (·.pc) = some 0x10FE := by decide +kernel
theorem test_jpV0_C14 : (run 0xB300 (regs [(3, 0x55)])).map (·.pc) = some 0x300 := by decide +kernel
theorem test_seByte_C16 : (run 0x332A (regs [(3, 0x2A)])).map (·.pc) = some 0x204 := by decide +kernel
theorem test_seByte_C17 : (run 0x332A (regs [(3, 0x2B)])).map (·.pc) = some 0x202 := by decide +kernel
theorem test_sneByte_C19 : (run 0x432A (regs [(3, 0x2A)])).map (·.pc) = some 0x202 := by decide +kernel
theorem test_sneByte_C20 : (run 0x432A (regs [(3, 0x2B)])).map (·.pc) = some 0x204 := by decide +kernel
theorem test_seReg_C21 : (run 0x5120 (regs [(1, 7), (2, 7)])).map (·.pc) = some 0x204 := by decide +kernel
theorem test_seReg_C22 : (run 0x5120 (regs [(1, 7), (2, 8)])).map (·.pc) = some 0x202 := by decide +kernel
theorem test_sneReg_C24 : (run 0x9120 (regs [(1, 7), (2, 8)])).map (·.pc) = some 0x204 := by decide +kernel
theorem test_sneReg_C25 : (run 0x9120 (regs [(1, 7), (2, 7)])).map (·.pc) = some 0x202 := by decide +kernel
theorem test_step_C29 : (run 0x6042 { State.reset with pc := 0xFFE }).map (fun t => (t.reg 0, t.pc)) =
    some (0x42, 0x1000) := by decide +kernel
theorem test_step_C31 :
    (run 0x6042 { State.reset with pc := 0x201, cfg := { standardConfig with strictAlign := false } }).map
      (fun t => (t.reg 0, t.pc)) = some (0x42, 0x203) := by decide +kernel

-- Table D.
theorem test_ldI_D3 : (run 0xA000 { State.reset with i := 0x1234 }).map (·.i) = some 0 := by decide +kernel
theorem test_addI_D5 :
    (run 0xF21E { regs [(2, 1), (15, 7)] with i := 0xFFF }).map (fun t => (t.i, t.reg 15)) = some (0x1000, 7) := by
  decide +kernel
theorem test_addI_D7 : (run 0xF21E { regs [(2, 0xFF)] with i := 0xFF01 }).map (·.i) = some 0 := by decide +kernel
theorem test_ldF_D11 : (run 0xF429 (regs [(4, 0x0F)])).map (·.i) = some 0x4B := by decide +kernel
theorem test_ldF_D12 : (run 0xF429 { regs [(4, 0x10)] with i := 0x123 }).map (fun t => (t.fault, t.i, t.pc)) =
    some (some (.operandOutOfRange .font 0x10), 0x123, 0x200) := by decide +kernel
theorem test_ldB_D20 : (run 0xF033 { regs [(0, 0x7B)] with i := 0xFFD }).map (fun t => t.readBytes 0xFFD 3) =
    some [1, 2, 3] := by decide +kernel
theorem test_ldB_D23 : (run 0xF033 { regs [(0, 0x7B)] with i := 0xFFFF }).map (fun t => (t.fault, t.pc)) =
    some (some (.memoryOutOfBounds .data 0xFFFF), 0x200) := by decide +kernel
theorem test_ldMemVx_D24 :
    (run 0xF255 { regs [(0, 0x11), (1, 0x22), (2, 0x33), (3, 0x44)] with i := 0x400 }).map
      (fun t => (t.readBytes 0x400 4, t.i)) = some ([0x11, 0x22, 0x33, 0x00], 0x400) := by decide +kernel
theorem test_ldMemVx_D31_false :
    (run 0xF055 { regs [(0, 0x5A)] with i := 0xFFF, loadStoreQuirk := false }).map (fun t => (t.readByte 0xFFF, t.i)) =
      some (0x5A, 0x1000) := by decide +kernel
theorem test_ldVxMem_D36 : (run 0xF265 { regs [(0, 0xEE)] with i := 0xFFE }).map (fun t => (t.fault, t.reg 0)) =
    some (some (.memoryOutOfBounds .data 0x1000), 0xEE) := by decide +kernel
theorem test_ldVxMem_D37_false :
    (run 0xF165 { regs [(2, 0xEE)] with loadStoreQuirk := false }).map (fun t => (t.reg 0, t.reg 1, t.reg 2, t.i)) =
      some (0xF0, 0x90, 0xEE, 2) := by decide +kernel

-- Table E.
/-- The bytes of the frame at `base` at some offsets. -/
def shown (base : Nat) (ks : List Nat) (t : State) : List Byte := ks.map (fun k => t.readByte (base + k))

theorem test_drw_E4 :
    (run 0xD013 ({ regs [(0, 8), (1, 0x1F)] with i := 0x300 }.writeBytes 0x300 [0x81, 0x42, 0x24])).map
      (fun t => (shown 0xE00 [1, 9, 249] t, shown 0xF00 [1, 9, 249] t, t.reg 15)) =
      some ([0x42, 0x24, 0x81], [0x42, 0x24, 0x81], 0) := by decide +kernel
theorem test_drw_E8 :
    (run 0xD011 ((({ State.reset with i := 0x301 }.writeBytes 0xE00 [0xF0]).writeBytes 0xF00 [0xF0]).writeBytes 0x301 [0x3C])).map
      (fun t => (shown 0xE00 [0, 1] t, shown 0xF00 [0, 1] t, Frame.byte t.fbPrev 0, t.reg 15)) =
      some ([0xCC, 0], [0xFC, 0], 0xF0, 1) := by decide +kernel
theorem test_cls_E17 :
    (run 0x00E0 (((regs [(15, 1)]).writeBytes 0xE00 [0xF0]).writeBytes 0xF00 [0xF0, 0x0F])).map
      (fun t => (shown 0xE00 [0] t, shown 0xF00 [0, 1] t, Frame.byte t.fbPrev 0, t.reg 15)) =
      some ([0], [0xF0, 0x0F], 0xF0, 1) := by decide +kernel

-- 92 decision D7, the alternative: "which would give the pre-clear authoritative frame".
/-- A machine whose CLS updates the display. -/
def updating : State := { State.reset with cfg := { standardConfig with clsUpdatesDisplay := true } }
theorem test_cls_D7 :
    (run 0x00E0 ((updating.writeBytes 0xE00 [0xF0]).writeBytes 0xF00 [0xFF, 0x0F])).map
      (fun t => (shown 0xE00 [0, 1] t, shown 0xF00 [0, 1] t)) = some ([0, 0], [0xF0, 0]) := by decide +kernel

-- Table F.
/-- A state with some keys down. -/
def keys (l : List Nat) (s : State) : State := l.foldl (fun s k => (setKeyPort k true s).1) s

theorem test_skp_F3 : (run 0xE29E (keys [15] (regs [(2, 0x0F)]))).map (·.pc) = some 0x204 := by decide +kernel
theorem test_skp_F4 : (run 0xE29E (keys [0] (regs [(2, 0x10)]))).map (fun t => (t.fault, t.pc)) =
    some (some (.operandOutOfRange .key 0x10), 0x200) := by decide +kernel
theorem test_sknp_F6 : (run 0xE2A1 (keys [5] (regs [(2, 5)]))).map (·.pc) = some 0x202 := by decide +kernel
theorem test_sknp_F7 : (run 0xE2A1 (keys [4] (regs [(2, 5)]))).map (·.pc) = some 0x204 := by decide +kernel
theorem test_ldVxK_F12 : (run 0xF30A (keys [9, 4, 12] (regs [(3, 0x99)]))).map (seen 3) = some (4, 0, 0x202) := by
  decide +kernel
theorem test_ldVxK_F10 : (run 0xF30A (regs [(3, 0x99)])).map (seen 3) = some (0x99, 0, 0x200) := by decide +kernel
theorem test_ldVxDt_F18 : (run 0xF507 { State.reset with dt := 0x3C }).map (fun t => (t.reg 5, t.dt)) =
    some (0x3C, 0x3C) := by decide +kernel
theorem test_ldDtVx_F20 : (run 0xF515 (regs [(5, 0x3C)])).map (fun t => (t.dt, t.st)) = some (0x3C, 0) := by decide +kernel
theorem test_ldStVx_F23 : (run 0xF518 { regs [(5, 0xFF)] with st := 1, dt := 4 }).map (fun t => (t.st, t.dt)) =
    some (0xFF, 4) := by decide +kernel

-- Table G.
theorem test_tick_G4 : (fun t : State => (t.dt, t.st)) (tickPort { State.reset with dt := 0xFF, st := 1 }) = (0xFE, 0) := by
  decide
theorem test_setKey_G5 : applyOp (.setKey 16 true) State.reset = (State.reset, .rejected (.keyIndexOutOfRange 16)) := rfl

/-- G7 and G8 at their boundary: `PROG_MAX` = 3040. -/
def programOf (n : Nat) : Program := ⟨List.replicate n 0xAA, false, true⟩

theorem test_load_G7 : (loadPort (some (programOf 3041)) State.reset).2 = .rejected (.programTooLarge 3041) := by
  decide +kernel

/-! ## Part 4: the hypotheses of the statements are met -/

/-- A machine that has failed: the state a bare RESET and STEP leave. -/
def failed : State := failedWith (.unimplementedInstruction 0x0000) State.reset

/-- `IllFormedConfigIsRefused`, `ViewsReturnCurrentContents`: the configuration is ill formed somewhere, and well formed somewhere. -/
theorem witness_IllFormedConfigIsRefused : ¬ (State.resetOf tooLarge 0).cfg.Wf ∧ State.reset.cfg.Wf := by decide +kernel

/-- `StepRunsTheFetchedInstruction`, after RESET and at the last word of memory (95_test_vectors C29). -/
theorem witness_StepRunsTheFetchedInstruction :
    let s := State.reset.withFetchWord 16 0x6A42
    let t := { State.reset with pc := 0xFFE }.withFetchWord 16 0x6042
    (s.cfg.Wf ∧ s.fault = none ∧ (s.cfg.strictAlign = true → s.pc.toNat % 2 = 0) ∧ s.pc.toNat + 2 ≤ s.cfg.memSize ∧
      decodeBytes [s.readByte s.pc.toNat, s.readByte (s.pc.toNat + 1)] = .ok (.ldByte 10 0x42, [])) ∧
    (t.cfg.Wf ∧ t.fault = none ∧ (t.cfg.strictAlign = true → t.pc.toNat % 2 = 0) ∧ t.pc.toNat + 2 = t.cfg.memSize ∧
      decodeBytes [t.readByte t.pc.toNat, t.readByte (t.pc.toNat + 1)] = .ok (.ldByte 0 0x42, [])) :=
  ⟨by decide +kernel, by decide +kernel⟩

theorem witness_FailuresBeforeExecution_latched :
    failed.cfg.Wf ∧ failed.fault = some (.unimplementedInstruction 0x0000) := by decide +kernel

/-- C32: the odd `PC` 0x0FFF is misaligned before it is out of bounds. -/
theorem witness_FailuresBeforeExecution_misaligned :
    let s := { State.reset with pc := 0xFFF }
    s.cfg.Wf ∧ s.fault = none ∧ s.cfg.strictAlign = true ∧ s.pc.toNat % 2 = 1 := by decide +kernel

/-- C29, C33: `PC` = `MEM_SIZE`, and the odd `PC` 0x0FFF of a machine that allows odd ones. -/
theorem witness_FailuresBeforeExecution_outOfBounds :
    let s := { State.reset with pc := 0x1000 }
    let t := { State.reset with pc := 0xFFF, cfg := { standardConfig with strictAlign := false } }
    (s.cfg.Wf ∧ s.fault = none ∧ (s.cfg.strictAlign = true → s.pc.toNat % 2 = 0) ∧ s.cfg.memSize < s.pc.toNat + 2) ∧
    (t.cfg.Wf ∧ t.fault = none ∧ (t.cfg.strictAlign = true → t.pc.toNat % 2 = 0) ∧ t.cfg.memSize < t.pc.toNat + 2) :=
  ⟨by decide +kernel, by decide +kernel⟩

/-- An illegal word of each illegal family (30_encoding R77), and legal neighbours of each. -/
theorem witness_illegalByFamily :
    illegalByFamily 0x00E1 ∧ illegalByFamily 0x5AB1 ∧ illegalByFamily 0x8ABF ∧ illegalByFamily 0x9AB1 ∧
    illegalByFamily 0xEA9F ∧ illegalByFamily 0xFA64 ∧ ¬ illegalByFamily 0x00E0 ∧ ¬ illegalByFamily 0x5AB0 ∧
    ¬ illegalByFamily 0x8ABE ∧ ¬ illegalByFamily 0x9AB0 ∧ ¬ illegalByFamily 0xEAA1 ∧ ¬ illegalByFamily 0xFA65 := by
  refine ⟨?_, ?_, ?_, ?_, ?_, ?_, ?_, ?_, ?_, ?_, ?_, ?_⟩ <;> unfold illegalByFamily <;> decide

theorem witness_FailuresBeforeExecution_illegal :
    let s := State.reset.withFetchWord 16 0x8AB8
    s.cfg.Wf ∧ s.fault = none ∧ (s.cfg.strictAlign = true → s.pc.toNat % 2 = 0) ∧ s.pc.toNat + 2 ≤ s.cfg.memSize ∧
      wordOfBytes (s.readByte s.pc.toNat) (s.readByte (s.pc.toNat + 1)) = 0x8AB8 ∧ (0x8AB8 : Word).toNat % 16 = 8 := by
  decide +kernel

theorem witness_EncodeOfDecode : decodeWord 0xD12F = .ok (.drw 1 2 15) := by decide

theorem witness_PlacedWordRunsFirst : decodeTableWord 16 0xD12F = some (.drw 1 2 15) := by decide

/-- The reset state with `I` set. -/
def withI (w : Word) : State := { State.reset with i := w }

/-- The reset state with `SP` set. -/
def withSp (w : Word) : State := { State.reset with sp := w }

theorem reset_inv : State.reset.Inv := by decide +kernel

theorem withI_inv (w : Word) : (withI w).Inv := reset_inv

/-- `StoreToCodeIsFetched`, at `x` = 1 with the store at `PC` + 2 and at the last word of memory. -/
theorem witness_StoreToCodeIsFetched :
    1 ≤ (1 : Reg).val ∧ ((withI 0x202).Inv ∧ (withI 0x202).i.toNat + (1 : Reg).val + 1 ≤ (withI 0x202).cfg.memSize) ∧
    ((withI 0xFFE).Inv ∧ (withI 0xFFE).i.toNat + (1 : Reg).val + 1 = (withI 0xFFE).cfg.memSize) :=
  ⟨by decide, ⟨withI_inv _, by decide⟩, ⟨withI_inv _, by decide⟩⟩

/-- `CallPushesAndJumps`, `CallThenReturn`: a full stack, one with room for one entry, and an empty one. -/
theorem witness_CallPushesAndJumps :
    ((withSp 0xDE0).Inv ∧ (withSp 0xDE0).sp.toNat = (withSp 0xDE0).cfg.stackLimit) ∧
    ((withSp 0xDE2).Inv ∧ (withSp 0xDE2).sp.toNat ≠ (withSp 0xDE2).cfg.stackLimit) ∧
    (State.reset.Inv ∧ State.reset.sp.toNat ≠ State.reset.cfg.stackLimit) := by
  refine ⟨⟨?_, ?_⟩, ⟨?_, ?_⟩, ?_, ?_⟩ <;> decide +kernel

/-- `ReturnPopsItsTarget`: an empty stack, one with one entry, and a full one. -/
theorem witness_ReturnPopsItsTarget :
    (State.reset.Inv ∧ State.reset.sp.toNat = State.reset.cfg.stackBase) ∧
    ((withSp 0xDFE).Inv ∧ (withSp 0xDFE).sp.toNat ≠ (withSp 0xDFE).cfg.stackBase) ∧
    ((withSp 0xDE0).Inv ∧ (withSp 0xDE0).sp.toNat ≠ (withSp 0xDE0).cfg.stackBase) := by
  refine ⟨⟨?_, ?_⟩, ⟨?_, ?_⟩, ?_, ?_⟩ <;> decide +kernel

/-- `AddSetsCarry`, `SubtractionsSetNotBorrow`, `ShiftsFollowTheQuirk`, `SameRegisterTwice`: a destination that is not VF; the
statements' other clauses have no premise, and hold at `x` = 15 too. -/
theorem witness_destination_not_vf : (14 : Reg) ≠ 15 ∧ (0 : Reg) ≠ 15 := by decide

theorem witness_ShiftsFollowTheQuirk :
    let s := regs [(1, 0x81), (2, 0x7F)]
    0x81 = (if s.shiftQuirk then (s.reg 1).toNat else (s.reg 2).toNat) ∧
    0x7F = (if { s with shiftQuirk := false }.shiftQuirk then (s.reg 1).toNat else (s.reg 2).toNat) := by decide +kernel

theorem witness_FontAddressOfDigit :
    let s := regs [(4, 0x0F), (5, 0x10)]
    s.cfg.Wf ∧ (s.reg 4).toNat ≤ 15 ∧ 15 < (s.reg 5).toNat := by decide +kernel

/-- `BcdStoresThreeDigits`: the last `I` whose three bytes are in memory, and the one after it (D20, D21). -/
theorem witness_BcdStoresThreeDigits :
    ((withI 0xFFD).Inv ∧ (withI 0xFFD).i.toNat + 3 ≤ (withI 0xFFD).cfg.memSize) ∧
    ((withI 0xFFE).Inv ∧ (withI 0xFFE).cfg.memSize < (withI 0xFFE).i.toNat + 3) :=
  ⟨⟨withI_inv _, by decide⟩, ⟨withI_inv _, by decide⟩⟩

/-- `BulkStoreCopiesRegisters`, `BulkLoadCopiesMemory`, `BulkStoreThenLoad`: 16 registers that end at the last byte, and one byte
too far (D27, D28). -/
theorem witness_bulk_sixteen :
    ((withI 0xFF0).Inv ∧ (withI 0xFF0).loadStoreQuirk = true ∧
      (withI 0xFF0).i.toNat + (15 : Reg).val + 1 ≤ (withI 0xFF0).cfg.memSize) ∧
    ((withI 0xFF1).Inv ∧ (withI 0xFF1).cfg.memSize < (withI 0xFF1).i.toNat + (15 : Reg).val + 1) :=
  ⟨⟨withI_inv _, by decide, by decide⟩, ⟨withI_inv _, by decide⟩⟩

/-- The same, one register at the last byte and past it (D31, D32). -/
theorem witness_bulk_one :
    ((withI 0xFFF).Inv ∧ (withI 0xFFF).loadStoreQuirk = true ∧
      (withI 0xFFF).i.toNat + (0 : Reg).val + 1 ≤ (withI 0xFFF).cfg.memSize) ∧
    ((withI 0x1000).Inv ∧ (withI 0x1000).cfg.memSize < (withI 0x1000).i.toNat + (0 : Reg).val + 1) :=
  ⟨⟨withI_inv _, by decide, by decide⟩, ⟨withI_inv _, by decide⟩⟩

/-- `ClearZeroesAuthoritativeFrame`, `DrawOfHeightZeroSettles`, `HostOpsKeepInvariant`, `LoadPortPlacesTheProgram`: the invariant
holds after RESET, and of a state with bytes listed and `SP` moved. -/
theorem witness_Inv :
    State.reset.Inv ∧ State.reset.cfg.clsUpdatesDisplay = false ∧ ((withSp 0xDFE).writeBytes 0xE00 [0xF0, 0x00, 0x0F]).Inv := ⟨reset_inv, rfl, by decide +kernel⟩

/-- `ClearUpdatingTheDisplay`: a machine whose CLS updates the display. -/
theorem witness_ClearUpdatingTheDisplay : updating.Inv ∧ updating.cfg.clsUpdatesDisplay = true := ⟨by decide +kernel, rfl⟩

/-- `DrawInvertsSpritePixels`: E16, the last `I` of a 15-row sprite and the one after it; and height 0 at any `I` (E13). -/
theorem witness_DrawInvertsSpritePixels :
    ((withI 0xFF1).Inv ∧ (withI 0xFF1).i.toNat + (15 : Nibble).toNat ≤ (withI 0xFF1).cfg.memSize) ∧
    ((withI 0xFF2).Inv ∧ (15 : Nibble) ≠ 0 ∧ (withI 0xFF2).cfg.memSize < (withI 0xFF2).i.toNat + (15 : Nibble).toNat) ∧
    ((withI 0xFFFF).Inv ∧ (0 : Nibble) = 0) :=
  ⟨⟨withI_inv _, by decide⟩, ⟨withI_inv _, by decide, by decide⟩, withI_inv _, rfl⟩

/-- `DrawInvertsSpritePixels`, `DrawTwiceRestores`: a lit pixel under a set sprite bit (E8), so that the collision clause is met. -/
theorem witness_collision :
    let s := ({ State.reset with i := 0x301 }.writeBytes 0xE00 [0xF0]).writeBytes 0x301 [0x3C]
    litAuth s 2 0 ∧ spriteOn s 0 1 1 2 0 ∧ (2 : Nat) < 64 ∧ (0 : Nat) < 32 := by
  intro s
  refine ⟨?_, ⟨0, 2, ?_⟩, by decide, by decide⟩
  · unfold litAuth
    decide +kernel
  · decide +kernel

/-- `DrawTwiceRestores`: glyph 0 (E1, E2), and a sprite that ends just below the authoritative frame. -/
theorem witness_DrawTwiceRestores :
    (State.reset.Inv ∧ (0 : Reg) ≠ 15 ∧ (1 : Reg) ≠ 15 ∧ State.reset.i.toNat + (5 : Nibble).toNat ≤ State.reset.cfg.memSize ∧
      (State.reset.i.toNat + (5 : Nibble).toNat ≤ State.reset.cfg.fbAuthBase ∨
        State.reset.cfg.fbAuthBase + 256 ≤ State.reset.i.toNat) ∧
      (State.reset.i.toNat + (5 : Nibble).toNat ≤ State.reset.cfg.fbDispBase ∨
        State.reset.cfg.fbDispBase + 256 ≤ State.reset.i.toNat)) ∧
    ((withI 0xDFF).Inv ∧ (withI 0xDFF).i.toNat + (1 : Nibble).toNat = (withI 0xDFF).cfg.fbAuthBase ∧
      (withI 0xDFF).i.toNat + (1 : Nibble).toNat ≤ (withI 0xDFF).cfg.fbDispBase) :=
  ⟨⟨reset_inv, by decide, by decide, by decide, by decide, by decide⟩, withI_inv _, by decide, by decide⟩

/-- The empty screen of its last clause. -/
theorem witness_DrawTwiceRestores_empty (k : Nat) (h : k < 256) :
    State.reset.readByte (State.reset.cfg.fbAuthBase + k) = 0 := by
  show resetByte standardConfig (standardConfig.fbAuthBase + k) = 0
  rw [resetByte, if_neg (by simp only [standardConfig]; omega)]

theorem witness_KeypadSkips :
    let s := regs [(2, 0x0F), (3, 0x10)]
    (15 : Reg).val = (s.reg 2).toNat ∧ 15 < (s.reg 3).toNat := by decide +kernel

/-- `WaitForAnyKey`: no key down; keys 4, 9 and 12 down (F12); key 15 alone (F14). -/
theorem witness_WaitForAnyKey :
    let s := keys [9, 4, 12] State.reset
    let t := keys [15] State.reset
    State.reset.cfg.keyWaitMode = .anyKeyLowest ∧ (∀ k, State.reset.keyDown k = false) ∧
    (s.cfg.keyWaitMode = .anyKeyLowest ∧ s.keyDown 4 = true ∧ ∀ j : Reg, j < 4 → s.keyDown j = false) ∧
    (t.cfg.keyWaitMode = .anyKeyLowest ∧ t.keyDown 15 = true ∧ ∀ j : Reg, j < 15 → t.keyDown j = false) := by decide +kernel

/-- `WaitForDesignatedKey` (F15, F17). -/
theorem witness_WaitForDesignatedKey :
    let s := { regs [(3, 0x0F), (4, 0x10)] with cfg := { standardConfig with keyWaitMode := .designatedVx } }
    s.cfg.keyWaitMode = .designatedVx ∧ (15 : Reg).val = (s.reg 3).toNat ∧ 15 < (s.reg 4).toNat := by decide +kernel

/-- `FailuresArePrecise`, `StepPortReportsTheOutcome`: a step that leaves a failure. -/
theorem witness_FailuresArePrecise :
    step State.reset = .next failed ∧ failed.fault = some (.unimplementedInstruction 0x0000) := ⟨rfl, rfl⟩

/-- `FailuresByInstruction`: a state that meets its premises and one of each kind of failure. -/
theorem witness_FailuresByInstruction :
    let s := { regs [(3, 0x10)] with i := 0xFFE }
    s.Inv ∧ s.fault = none ∧ raises s (.stackBounds .onReturn) .ret ∧ raises s (dataOut s) (.ldB 0) ∧
      raises s (.operandOutOfRange .key 0x10) (.skp 3) ∧ ¬ raises s (dataOut s) (.ldMemVx 1) := by
  intro s
  refine ⟨by decide +kernel, rfl, ?_⟩
  unfold raises dataOut
  decide +kernel

/-- The whole-machine rules on an instruction's next state: `PcAfterEachInstruction`, `OnlyStoringInstructionsWriteMemory`,
`NoInstructionWritesHostState`, `SpecialRegistersHaveTheirWriters`, `FlagIsWrittenByFlagInstructionsOnly`,
`QuirksSelectTheirFamilies`. -/
theorem witness_exec_next :
    State.reset.fault = none ∧ exec (.ldI 0x2F0) State.reset = .next (State.reset.setI 0x2F0).advance ∧
      ((State.reset.setI 0x2F0).advance).fault = none ∧ storesToMemory (.ldI 0x2F0) = false ∧ writesFlag (.ldI 0x2F0) = false ∧
      writesVfAsRegister (.ldI 0x2F0) = false := ⟨rfl, rfl, rfl, rfl, rfl, rfl⟩

/-- Their clause on an instruction that fails: RET on the empty stack. -/
theorem witness_exec_failure :
    exec .ret State.reset = .next (failedWith (.stackBounds .onReturn) State.reset) ∧
      (failedWith (.stackBounds .onReturn) State.reset).fault ≠ none := ⟨rfl, by decide⟩

/-- `FlagIsWrittenByFlagInstructionsOnly`: an instruction that writes the flag. -/
theorem witness_flag :
    exec (.addReg 1 2) State.reset = .next (State.reset.setResultFlag 1 0 false).advance ∧ writesFlag (.addReg 1 2) = true ∧
      ((State.reset.setResultFlag 1 0 false).advance).fault = none := ⟨rfl, rfl, rfl⟩

/-- `QuirksSelectTheirFamilies`: an instruction that is neither a shift nor a bulk transfer. -/
theorem witness_QuirksSelectTheirFamilies :
    (∀ x y, Instr.ldI 0x2F0 ≠ .shr x y ∧ Instr.ldI 0x2F0 ≠ .shl x y) ∧
      (∀ x, Instr.ldI 0x2F0 ≠ .ldMemVx x ∧ Instr.ldI 0x2F0 ≠ .ldVxMem x) := by simp

/-- The word 1234, JP 0x234, where the first step fetches (C1). -/
def jumpPlaced : State := State.reset.withFetchWord 16 0x1234

/-- `PreviousFrameIsNeverRead`, `StepKeepsInvariant`, `StepPortReportsTheOutcome`: a step that succeeds, of a state that meets the
invariant. -/
theorem witness_step_next :
    jumpPlaced.Inv ∧ step jumpPlaced = .next (jumpPlaced.jump 0x234) ∧ (jumpPlaced.jump 0x234).fault = none :=
  ⟨by decide +kernel, step_of_fetch jumpPlaced (.jp 0x234) (by decide +kernel) rfl (by decide +kernel), rfl⟩

/-- `ResetMeetsInvariant`: a well-formed configuration that is not the standard one. -/
theorem witness_ResetMeetsInvariant : { standardConfig with fontBase := 0x50, strictAlign := false }.Wf := by decide +kernel

/-- `ResetPortClearsEverything`, `FailedMachineUnderTheHost`, `OnlyResetAndLoadClearFailures`: a failed machine. -/
theorem witness_failed : failed.cfg.Wf ∧ failed.fault = some (.unimplementedInstruction 0x0000) := by decide +kernel

/-- `OnlyResetAndLoadClearFailures`: operations under each clause, a performed LOAD (of a program of no bytes) and a refused one
among them. -/
theorem witness_OnlyResetAndLoadClearFailures :
    clearsFailure .reset failed ∧ clearsFailure (.load (some (programOf 0))) failed ∧
      ¬ clearsFailure .tick failed ∧ ¬ clearsFailure (.load none) failed := by
  refine ⟨.inl rfl, .inr ⟨⟨_, rfl⟩, rfl⟩, ?_, ?_⟩ <;> rintro (h | ⟨⟨_, h⟩, -⟩) <;> cases h

/-- `LoadPortPlacesTheProgram`: the longest program that fits, one byte more (G7, G8), and none. -/
theorem witness_LoadPortPlacesTheProgram :
    State.reset.Inv ∧ (programOf 3040).bytes.length ≤ State.reset.cfg.stackLimit - State.reset.cfg.progBase ∧
      State.reset.cfg.stackLimit - State.reset.cfg.progBase < (programOf 3041).bytes.length ∧
      (programOf 0).bytes.length ≤ State.reset.cfg.stackLimit - State.reset.cfg.progBase := by
  refine ⟨by decide +kernel, ?_⟩
  simp only [programOf, List.length_replicate]
  decide

theorem witness_SetKeySetsOneKey : 15 < (16 : Nat) ∧ (15 : Reg).val = 15 ∧ (0 : Reg) ≠ 15 := by decide

end Sys2Proof.Tests
end

section
/-!
PROOFS. The host's views (60_exceptions R194): what MEMVIEW and DISPVIEW return, byte by byte, and the statement on all three.
-/

namespace Sys2Proof.Machine

/-! ### Bytes of a list read from memory and of a frame's list -/

theorem State.readBytes_getD (s : State) (a n k : Nat) (b : Byte) (h : k < n) :
    (s.readBytes a n).getD k b = s.readByte (a + k) := by
  rw [List.getD_eq_getElem _ _ (by simpa using h), State.readBytes_getElem]

theorem Frame.toList_getD (fr : Frame) (k : Nat) : fr.toList.getD k 0 = Frame.byte fr k := by
  simp [Frame.byte, List.getD_eq_getElem?_getD]

/-! ### The views -/

@[simp] theorem memView_length (s : State) : (memView s).length = s.cfg.memSize := State.readBytes_length s 0 _

theorem memView_getD (s : State) (a : Nat) (h : a < s.cfg.memSize) : (memView s).getD a 0 = s.readByte a := by
  rw [memView, State.readBytes_getD s 0 _ a 0 h, Nat.zero_add]

@[simp] theorem dispView_length (s : State) : (dispView s).length = 256 := Vector.length_toList

theorem dispView_getD (s : State) (k : Nat) (h : k < 256) :
    (dispView s).getD k 0 = s.readByte (s.cfg.fbDispBase + k) := by
  rw [dispView, Frame.toList_getD, State.dispFrame, State.frameAt_byte s _ k h]

/-- The length DISPVIEW returns beside the bytes is the source's (00_scope R6). -/
theorem fbLen_of_wf (c : Config) (h : c.Wf) : c.fbLen = 256 := by
  obtain ⟨-, -, -, -, -, -, -, -, -, ⟨hlen, -⟩, -⟩ := h
  exact hlen

/-- Settles O57: each view's bytes are those of memory, by `memView_getD` and `dispView_getD`. -/
theorem viewsReturnCurrentContents : Obligations.ViewsReturnCurrentContents := by
  intro s
  exact ⟨⟨memView s, rfl, memView_length s, memView_getD s⟩,
    ⟨dispView s, rfl, dispView_length s, fbLen_of_wf s.cfg, dispView_getD s⟩, rfl⟩

end Sys2Proof.Machine
end

section
/-!
PROOFS. The stack as CALL and RET use it (40_step R94, R96; 20_memory R48): when there is room and when there is an entry, what a
push stores, what the top of the stack is, and the two instructions' statements.
-/

namespace Sys2Proof.Machine

/-! ### The bounds of the stack pointer -/

/-- `SP` and both bounds are even, so a stack that is not full has room for a whole entry. -/
theorem State.Inv.room_of_not_full {s : State} (h : s.Inv) (hfull : s.sp.toNat ≠ s.cfg.stackLimit) :
    s.cfg.stackLimit + 2 ≤ s.sp.toNat := by
  obtain ⟨⟨-, -, -, ⟨hlimit, -⟩, -⟩, -, hsp, hge, -⟩ := h
  omega

/-- Likewise a stack that is not empty holds a whole entry. -/
theorem State.Inv.entry_of_not_empty {s : State} (h : s.Inv) (hempty : s.sp.toNat ≠ s.cfg.stackBase) :
    s.sp.toNat + 2 ≤ s.cfg.stackBase := by
  obtain ⟨⟨-, -, -, ⟨-, hbase⟩, -⟩, -, hsp, -, hle⟩ := h
  omega

theorem sub_two_toNat (w : Word) (h : 2 ≤ w.toNat) : (w - 2).toNat = w.toNat - 2 :=
  BitVec.toNat_sub_of_le (BitVec.le_def.mpr h)

/-- An entry below `STACK_BASE` leaves `SP` + 2 in 16 bits (10_state R14). -/
theorem sp_add_two_toNat (s : State) (hc : s.cfg.Wf) (h : s.sp.toNat + 2 ≤ s.cfg.stackBase) :
    (s.sp + 2).toNat = s.sp.toNat + 2 := by
  obtain ⟨-, -, -, -, -, -, ⟨hbase, -⟩, -⟩ := hc
  have hfits : s.sp.toNat + (2 : Word).toNat < 2 ^ 16 := by
    show s.sp.toNat + 2 < 65536
    omega
  exact BitVec.toNat_add_of_lt hfits

/-! ### A push and the top -/

/-- What a push stores where there is room below `SP` (20_memory R44, R48): the high byte at the new `SP`, the low byte above it. -/
theorem State.readByte_push (s : State) (w : Word) (a : Nat) (h : Memory.Wf s.cfg s.mem) (h2 : 2 ≤ s.sp.toNat) :
    (s.push w).readByte a =
      if a = s.sp.toNat - 2 then hiByte w else if a = s.sp.toNat - 1 then loByte w else s.readByte a := by
  have hstore := State.readByte_writeBytes { s with sp := s.sp - 2 } (s.sp.toNat - 2) (wordBytes w) a h
  rw [State.push, State.writeWord, sub_two_toNat s.sp h2, hstore]
  by_cases hhi : a = s.sp.toNat - 2
  · simp [hhi, wordBytes]
  · by_cases hlo : a = s.sp.toNat - 1
    · have hindex : a - (s.sp.toNat - 2) = 1 := by omega
      rw [dif_pos (by rw [wordBytes_length]; omega), if_neg hhi, if_pos hlo]
      simp [hindex, wordBytes]
    · rw [dif_neg (by rw [wordBytes_length]; omega), if_neg hhi, if_neg hlo]
      rfl

theorem State.push_sameMemoryOutside (s : State) (w : Word) (h : Memory.Wf s.cfg s.mem) (h2 : 2 ≤ s.sp.toNat) :
    SameMemoryOutside (s.sp.toNat - 2) 2 s (s.push w) := by
  intro a ha
  rw [State.readByte_push s w a h h2, if_neg (by omega), if_neg (by omega)]

/-- The two bytes at `SP`, high byte first (20_memory R44, R48). -/
theorem State.top_toNat (s : State) :
    s.top.toNat = 256 * (s.readByte s.sp.toNat).toNat + (s.readByte (s.sp.toNat + 1)).toNat :=
  wordOfBytes_toNat _ _

/-! ### CALL -/

theorem exec_call (nnn : Addr12) (s : State) :
    exec (.call nnn) s = attempt s (pushFault s) ((s.push (s.pc + 2)).jump (zext16 nnn)) := rfl

theorem exec_call_full (nnn : Addr12) (s : State) (hfull : s.sp.toNat = s.cfg.stackLimit) :
    exec (.call nnn) s = .next (failedWith (.stackBounds .onCall) s) := by
  rw [exec_call, pushFault_full s (by omega), attempt_some]

theorem exec_call_room (nnn : Addr12) (s : State) (h : s.Inv) (hfull : s.sp.toNat ≠ s.cfg.stackLimit) :
    exec (.call nnn) s = .next ((s.push (s.pc + 2)).jump (zext16 nnn)) := by
  have hroom := h.room_of_not_full hfull
  obtain ⟨hc, -, -, -, hle⟩ := h
  rw [exec_call, pushFault_eq_none s hc hroom hle, attempt_none]

/-- Settles O15: with room for an entry the next state is the push and the jump, whose bytes and frame are those of the push. -/
theorem callPushesAndJumps : Obligations.CallPushesAndJumps := by
  intro nnn s hinv
  refine ⟨exec_call_full nnn s, fun hfull => ⟨_, exec_call_room nnn s hinv hfull, zext16_toNat nnn, ?_⟩⟩
  have h2 : 2 ≤ s.sp.toNat := le_of_add_le_right (hinv.room_of_not_full hfull)
  obtain ⟨-, hm, -⟩ := hinv
  refine ⟨sub_two_toNat s.sp h2, ?_, ?_, State.push_sameMemoryOutside s _ hm h2, rfl⟩
  · rw [State.jump_readByte, State.readByte_push s _ _ hm h2, if_pos rfl, hiByte_toNat]
  · rw [State.jump_readByte, State.readByte_push s _ _ hm h2, if_neg (by omega), if_pos rfl, loByte_toNat]

/-! ### RET -/

theorem exec_ret (s : State) : exec .ret s = attempt s (popFault s) (s.pop.jump s.top) := rfl

theorem exec_ret_empty (s : State) (hempty : s.sp.toNat = s.cfg.stackBase) :
    exec .ret s = .next (failedWith (.stackBounds .onReturn) s) := by
  rw [exec_ret, popFault_empty s (by omega), attempt_some]

theorem exec_ret_entry (s : State) (h : s.Inv) (hempty : s.sp.toNat ≠ s.cfg.stackBase) :
    exec .ret s = .next (s.pop.jump s.top) := by
  rw [exec_ret, popFault_eq_none s h.1 (h.entry_of_not_empty hempty), attempt_none]

/-- Settles O16: with an entry on the stack the next state is the pop and the jump to the top, and neither writes memory. -/
theorem returnPopsItsTarget : Obligations.ReturnPopsItsTarget := by
  intro s hinv
  refine ⟨exec_ret_empty s, fun hempty => ⟨_, exec_ret_entry s hinv hempty, s.top_toNat, ?_, fun _ => rfl, rfl⟩⟩
  exact sp_add_two_toNat s hinv.1 (hinv.entry_of_not_empty hempty)

end Sys2Proof.Machine
end

section
/-!
PROOFS. The register instructions that write a result and then VF (41_alu R116, R118, R120, R123): what such a pair of writes
leaves, the arithmetic of the sum and of the shifts with their flags, and the statements on 8xy4, 8xy6 and 8xyE.
-/

namespace Sys2Proof.Machine

/-! ### A result, then a flag -/

/-- Writing a result and then a flag changes the destination, VF and `PC` alone (41 R123). -/
theorem State.setResultFlag_advance_frame (s : State) (x : Reg) (result : Byte) (flag : Bool) :
    OnlyRegsAndPc [x, 15] s (s.setResultFlag x result flag).advance := by
  refine ⟨rfl, fun r hr => ?_, fun _ => rfl⟩
  obtain ⟨hx, hvf⟩ : r ≠ x ∧ r ≠ vf := by simpa using hr
  exact s.reg_setResultFlag_other x r result flag hx hvf

/-- What an instruction that answers a result and a flag leaves, its two bytes read as numbers: with `x` = 15 the result is lost,
and VF holds the flag (41 R123). -/
theorem next_of_setResultFlag {i : Instr} {s : State} {x : Reg} {result : Byte} {flag : Bool} {value bit : Nat}
    (hexec : exec i s = .next (s.setResultFlag x result flag).advance) (hvalue : result.toNat = value)
    (hbit : (flagByte flag).toNat = bit) :
    ∃ t, exec i s = .next t ∧ (x ≠ 15 → (t.reg x).toNat = value) ∧ (t.reg 15).toNat = bit ∧
      OnlyRegsAndPc [x, 15] s t ∧ t.pc = s.pc + 2 := by
  refine ⟨_, hexec, fun hx => ?_, ?_, s.setResultFlag_advance_frame x result flag, rfl⟩
  · rw [State.advance_reg, State.reg_setResultFlag_dest s x result flag hx, hvalue]
  · rw [State.advance_reg, State.reg_setResultFlag_vf, hbit]

/-! ### The sum and its carry -/

theorem exec_addReg (x y : Reg) (s : State) :
    exec (.addReg x y) s = .next (s.setResultFlag x (s.reg x + s.reg y) (carry (s.reg x) (s.reg y))).advance := rfl

theorem flagByte_carry_toNat (a b : Byte) : (flagByte (carry a b)).toNat = if a.toNat + b.toNat > 255 then 1 else 0 := by
  simp [flagByte_toNat, carry]

/-- Settles O21: the sum's byte is `BitVec.toNat_add`, the flag's is `flagByte_carry_toNat`. -/
theorem addSetsCarry : Obligations.AddSetsCarry := by
  intro x y s
  exact next_of_setResultFlag (exec_addReg x y s) (BitVec.toNat_add _ _) (flagByte_carry_toNat _ _)

/-! ### The shifts and the bit shifted out -/

theorem exec_shr (x y : Reg) (s : State) :
    exec (.shr x y) s =
      .next (s.setResultFlag x (shiftSource s x y >>> 1) (shiftedOutRight (shiftSource s x y))).advance := rfl

theorem exec_shl (x y : Reg) (s : State) :
    exec (.shl x y) s =
      .next (s.setResultFlag x (shiftSource s x y <<< 1) (shiftedOutLeft (shiftSource s x y))).advance := rfl

theorem shiftSource_toNat (s : State) (x y : Reg) :
    (shiftSource s x y).toNat = if s.shiftQuirk then (s.reg x).toNat else (s.reg y).toNat :=
  apply_ite BitVec.toNat _ _ _

theorem ushiftRight_one_toNat (b : Byte) : (b >>> 1).toNat = b.toNat / 2 := by
  rw [BitVec.toNat_ushiftRight, Nat.shiftRight_one]

theorem shiftLeft_one_toNat (b : Byte) : (b <<< 1).toNat = 2 * b.toNat % 256 := by
  rw [BitVec.toNat_shiftLeft, Nat.shiftLeft_eq, Nat.mul_comm]

theorem flagByte_toNat_eq_toNat (flag : Bool) : (flagByte flag).toNat = flag.toNat := by cases flag <;> rfl

/-- The flag of a bit of a byte is that binary digit. -/
theorem flagByte_getLsbD_toNat (b : Byte) (k : Nat) : (flagByte (b.getLsbD k)).toNat = b.toNat / 2 ^ k % 2 := by
  rw [flagByte_toNat_eq_toNat, BitVec.getLsbD, Nat.toNat_testBit]

theorem flagByte_shiftedOutRight_toNat (b : Byte) : (flagByte (shiftedOutRight b)).toNat = b.toNat % 2 := by
  rw [shiftedOutRight, flagByte_getLsbD_toNat, Nat.pow_zero, Nat.div_one]

/-- Bit 7 is a byte's top digit, so what lies above it is 0. -/
theorem flagByte_shiftedOutLeft_toNat (b : Byte) : (flagByte (shiftedOutLeft b)).toNat = b.toNat / 128 := by
  have hbyte : b.toNat < 256 := b.isLt
  rw [shiftedOutLeft, flagByte_getLsbD_toNat]
  omega

/-- Settles O23: the source is `shiftSource`, and the shifted byte and the flag are its quotients and remainders. -/
theorem shiftsFollowTheQuirk : Obligations.ShiftsFollowTheQuirk := by
  rintro x y s source rfl
  rw [← shiftSource_toNat]
  exact ⟨next_of_setResultFlag (exec_shr x y s) (ushiftRight_one_toNat _) (flagByte_shiftedOutRight_toNat _),
    next_of_setResultFlag (exec_shl x y s) (shiftLeft_one_toNat _) (flagByte_shiftedOutLeft_toNat _)⟩

end Sys2Proof.Machine
end

section
/-!
PROOFS. Transfers of bytes between the registers and memory at `I` (42_index_and_memory R133 to R135, R137; 20_memory R50): their
bounds check, the bytes stored and loaded, `I` after a bulk transfer, and the statements on Fx33, Fx55 and Fx65.
-/

namespace Sys2Proof.Machine

open Sys2Proof.Claims

/-! ### The bounds check of an access at `I` -/

/-- An access at `I` that leaves memory discards the effect (20_memory R50; 60_exceptions R176). -/
theorem attempt_dataFault_outOfBounds (s effect : State) (n : Nat) (hout : s.cfg.memSize < s.i.toNat + n) :
    attempt s (dataFault s s.i.toNat n) effect = .next (failedWith (dataOut s) s) := by
  rw [(dataFault_eq_some s s.i.toNat n (dataOut s)).mpr ⟨hout, rfl⟩, attempt_some]

theorem attempt_dataFault_inBounds (s effect : State) (n : Nat) (hin : s.i.toNat + n ≤ s.cfg.memSize) :
    attempt s (dataFault s s.i.toNat n) effect = .next effect := by
  rw [(dataFault_eq_none s s.i.toNat n).mpr hin, attempt_none]

/-! ### The bytes a store leaves -/

theorem State.readByte_writeBytes_at (s : State) (a : Nat) (bs : List Byte) (k : Nat) (h : Memory.Wf s.cfg s.mem)
    (hk : k < bs.length) : (s.writeBytes a bs).readByte (a + k) = bs[k] := by
  rw [State.readByte_writeBytes s a bs (a + k) h, dif_pos (by omega)]
  simp only [Nat.add_sub_cancel_left]

theorem State.writeBytes_sameMemoryOutside (s : State) (a : Nat) (bs : List Byte) (h : Memory.Wf s.cfg s.mem) :
    SameMemoryOutside a bs.length s (s.writeBytes a bs) :=
  fun x hx => s.readByte_writeBytes_outside a bs x h hx

/-! ### Fx33 -/

theorem exec_ldB (x : Reg) (s : State) :
    exec (.ldB x) s = attempt s (dataFault s s.i.toNat 3) (s.writeBytes s.i.toNat (bcdDigits (s.reg x))).advance := rfl

theorem toNat_ofNat_byte (n : Nat) (h : n < 256) : (BitVec.ofNat 8 n).toNat = n := by
  rw [BitVec.toNat_ofNat, Nat.mod_eq_of_lt h]

/-- Settles O28: the byte stored at `I` + `k` is digit `k` of `bcdDigits`, and each digit fits in a byte. -/
theorem bcdStoresThreeDigits : Obligations.BcdStoresThreeDigits := by
  rintro x s ⟨-, hm, -⟩
  rw [exec_ldB x s]
  refine ⟨attempt_dataFault_outOfBounds s _ 3, fun hin => ⟨_, attempt_dataFault_inBounds s _ 3 hin, ?_⟩⟩
  have hbyte : (s.reg x).toNat < 256 := (s.reg x).isLt
  have hdigit (k : Nat) (hk : k < 3) :=
    congrArg BitVec.toNat (s.readByte_writeBytes_at s.i.toNat (bcdDigits (s.reg x)) k hm hk)
  refine ⟨?hundreds, ?tens, ?ones, s.writeBytes_sameMemoryOutside s.i.toNat (bcdDigits (s.reg x)) hm, rfl, rfl⟩
  case hundreds => exact (hdigit 0 (by decide)).trans (toNat_ofNat_byte _ (by omega))
  case tens => exact (hdigit 1 (by decide)).trans (toNat_ofNat_byte _ (by omega))
  case ones => exact (hdigit 2 (by decide)).trans (toNat_ofNat_byte _ (by omega))

/-! ### `I` after a bulk transfer -/

theorem bulkIndex_toNat (s : State) (x : Reg) :
    (bulkIndex s x).toNat = if s.loadStoreQuirk then s.i.toNat else (s.i.toNat + x.val + 1) % 65536 := by
  have hcount : (BitVec.ofNat 16 (x.val + 1)).toNat = x.val + 1 := by
    rw [BitVec.toNat_ofNat]
    omega
  rw [bulkIndex, apply_ite BitVec.toNat, BitVec.toNat_add, hcount, ← Nat.add_assoc]

/-! ### Fx55 -/

theorem exec_ldMemVx (x : Reg) (s : State) :
    exec (.ldMemVx x) s = attempt s (dataFault s s.i.toNat (x.val + 1))
      ((s.writeBytes s.i.toNat (regBytes s x)).setI (bulkIndex s x)).advance := rfl

theorem State.readByte_writeBytes_regBytes (s : State) (a : Nat) (x r : Reg) (h : Memory.Wf s.cfg s.mem)
    (hr : r.val ≤ x.val) : (s.writeBytes a (regBytes s x)).readByte (a + r.val) = s.reg r := by
  rw [s.readByte_writeBytes_at a _ r.val h (by rw [regBytes_length]; omega), regBytes_getElem, Fin.ofNat_val_eq_self]

theorem State.writeBytes_regBytes_sameMemoryOutside (s : State) (a : Nat) (x : Reg) (h : Memory.Wf s.cfg s.mem) :
    SameMemoryOutside a (x.val + 1) s (s.writeBytes a (regBytes s x)) :=
  regBytes_length s x ▸ s.writeBytes_sameMemoryOutside a (regBytes s x) h

/-- Settles O29: the bytes stored are the registers' (`readByte_writeBytes_regBytes`), and `I` is `bulkIndex`. -/
theorem bulkStoreCopiesRegisters : Obligations.BulkStoreCopiesRegisters := by
  rintro x s ⟨-, hm, -⟩
  rw [exec_ldMemVx x s]
  refine ⟨attempt_dataFault_outOfBounds s _ (x.val + 1), fun hin =>
    ⟨_, attempt_dataFault_inBounds s _ (x.val + 1) hin, ?_⟩⟩
  exact ⟨fun r hr => s.readByte_writeBytes_regBytes s.i.toNat x r hm hr,
    s.writeBytes_regBytes_sameMemoryOutside s.i.toNat x hm, bulkIndex_toNat s x, rfl, rfl⟩

/-! ### Fx65 -/

theorem exec_ldVxMem (x : Reg) (s : State) :
    exec (.ldVxMem x) s = attempt s (dataFault s s.i.toNat (x.val + 1))
      ((s.setRegs 0 (s.readBytes s.i.toNat (x.val + 1))).setI (bulkIndex s x)).advance := rfl

/-- A load of `n` bytes from `a` into `V[0]`, `V[1]`, ... (42 R135). -/
theorem State.reg_setRegs_readBytes (s : State) (a n : Nat) (hn : n ≤ 16) (r : Reg) :
    (s.setRegs 0 (s.readBytes a n)).reg r = if r.val < n then s.readByte (a + r.val) else s.reg r := by
  have hlen : 0 + (s.readBytes a n).length ≤ 16 := by simpa using hn
  rw [s.reg_setRegs 0 _ hlen r]
  simp

/-- Settles O30: each register reads by `reg_setRegs_readBytes`, `I` is `bulkIndex`, and a register load writes `v` alone
(`setRegs_frame`). -/
theorem bulkLoadCopiesMemory : Obligations.BulkLoadCopiesMemory := by
  intro x s
  rw [exec_ldVxMem x s]
  refine ⟨attempt_dataFault_outOfBounds s _ (x.val + 1), fun hin =>
    ⟨_, attempt_dataFault_inBounds s _ (x.val + 1) hin, ?_⟩⟩
  have hreg := s.reg_setRegs_readBytes s.i.toNat (x.val + 1) x.isLt
  rw [State.setRegs_frame]
  exact ⟨fun r hr => (hreg r).trans (if_pos (Nat.lt_succ_of_le hr)),
    fun r hr => (hreg r).trans (if_neg (Nat.not_lt_of_ge hr)), bulkIndex_toNat s x, rfl, fun _ => rfl, rfl⟩

end Sys2Proof.Machine
end

section
/-!
PROOFS. Whole frames in memory and CLS (43_display R143; 20_memory R49): the bytes a stored frame leaves inside and outside it, what
CLS answers when it leaves the display frame alone, and the statement on it.
-/

namespace Sys2Proof.Machine

/-! ### Storing a whole frame -/

theorem State.readByte_writeFrame_at (s : State) (base : Nat) (fr : Frame) (k : Nat) (h : Memory.Wf s.cfg s.mem)
    (hk : k < 256) : (s.writeFrame base fr).readByte (base + k) = Frame.byte fr k := by
  rw [State.readByte_writeFrame s base fr _ h, if_pos (by omega), Nat.add_sub_cancel_left]

theorem State.writeFrame_sameMemoryOutside (s : State) (base : Nat) (fr : Frame) (h : Memory.Wf s.cfg s.mem) :
    SameMemoryOutside base 256 s (s.writeFrame base fr) := by
  intro a ha
  rw [State.readByte_writeFrame s base fr a h, if_neg (by omega)]

/-- The frames of a well-formed configuration share no byte, so what spares the memory outside `FBauth` spares `FBdisp`. -/
theorem SameMemoryOutside.readByte_dispFrame {s t : State} (h : SameMemoryOutside s.cfg.fbAuthBase 256 s t)
    (hc : s.cfg.Wf) {k : Nat} (hk : k < 256) :
    t.readByte (s.cfg.fbDispBase + k) = s.readByte (s.cfg.fbDispBase + k) := by
  obtain ⟨-, -, -, hdisjoint⟩ := frames_of_wf s.cfg hc
  exact h _ (by omega)

/-! ### CLS -/

theorem byte_blankFrame (k : Nat) (hk : k < 256) : Frame.byte blankFrame k = 0 := Frame.byte_ofFn _ k hk

theorem snapshot_fbPrev_byte (s : State) (k : Nat) (hk : k < 256) :
    Frame.byte s.snapshot.fbPrev k = s.readByte (s.cfg.fbAuthBase + k) := s.frameAt_byte _ k hk

theorem exec_cls (s : State) :
    exec .cls s = .next
      ((s.snapshot.writeFrame s.cfg.fbAuthBase blankFrame).writeBytes s.cfg.fbDispBase (clearedDisplay s)).advance := rfl

theorem clearedDisplay_eq_nil (s : State) (h : s.cfg.clsUpdatesDisplay = false) : clearedDisplay s = [] := by
  simp [clearedDisplay, h]

theorem exec_cls_of_not_updating (s : State) (h : s.cfg.clsUpdatesDisplay = false) :
    exec .cls s = .next (s.snapshot.writeFrame s.cfg.fbAuthBase blankFrame).advance := by
  rw [exec_cls, clearedDisplay_eq_nil s h]
  rfl

/-- Settles O32: CLS is a snapshot and a store of the blank frame, which leaves the bytes outside `FBauth`, those of `FBdisp`
among them. -/
theorem clearZeroesAuthoritativeFrame : Obligations.ClearZeroesAuthoritativeFrame := by
  rintro s ⟨hc, hm, -⟩ hflag
  have hsame : SameMemoryOutside s.cfg.fbAuthBase 256 s (s.snapshot.writeFrame s.cfg.fbAuthBase blankFrame).advance :=
    s.snapshot.writeFrame_sameMemoryOutside s.cfg.fbAuthBase blankFrame hm
  refine ⟨_, exec_cls_of_not_updating s hflag, fun k hk => ⟨?zeroed, snapshot_fbPrev_byte s k hk⟩,
    fun k hk => hsame.readByte_dispFrame hc hk, hsame, rfl, rfl⟩
  case zeroed =>
    rw [State.advance_readByte, s.snapshot.readByte_writeFrame_at _ _ k hm hk, byte_blankFrame k hk]

end Sys2Proof.Machine
end

section
/-!
PROOFS. The wait for a designated key (44_keypad_and_timers R163): the check of a register value used as a key or digit, what Fx0A
answers in that mode, and the statement on it.
-/

namespace Sys2Proof.Machine

/-! ### The check of a register value used as a key or digit -/

/-- A value above 15 discards the effect (60_exceptions R176). -/
theorem attempt_operandFault_outOfRange (s effect : State) (kind : OperandKind) (value : Byte) (hout : 15 < value.toNat) :
    attempt s (operandFault kind value) effect = .next (failedWith (.operandOutOfRange kind value) s) := by
  rw [(operandFault_eq_some kind value (.operandOutOfRange kind value)).mpr ⟨hout, rfl⟩, attempt_some]

theorem attempt_operandFault_inRange (s effect : State) (kind : OperandKind) (value : Byte) (hin : value.toNat ≤ 15) :
    attempt s (operandFault kind value) effect = .next effect := by
  rw [(operandFault_eq_none kind value).mpr hin, attempt_none]

theorem keyOf_eq_of_val_eq (value : Byte) (k : Reg) (h : k.val = value.toNat) : keyOf value = k :=
  Fin.ext ((keyOf_val value (h ▸ Nat.le_of_lt_succ k.isLt)).trans h.symm)

/-! ### Fx0A in `DesignatedVx` -/

theorem exec_ldVxK_designatedVx (x : Reg) (s : State) (hmode : s.cfg.keyWaitMode = .designatedVx) :
    exec (.ldVxK x) s =
      attempt s (operandFault .key (s.reg x)) (if s.keyDown (keyOf (s.reg x)) then s.advance else s) := by
  rw [exec, execLdVxK, hmode]
  rfl

theorem exec_ldVxK_designatedVx_outOfRange (x : Reg) (s : State) (hmode : s.cfg.keyWaitMode = .designatedVx)
    (hout : 15 < (s.reg x).toNat) :
    exec (.ldVxK x) s = .next (failedWith (.operandOutOfRange .key (s.reg x)) s) := by
  rw [exec_ldVxK_designatedVx x s hmode, attempt_operandFault_outOfRange s _ .key (s.reg x) hout]

theorem exec_ldVxK_designatedVx_key (x : Reg) (s : State) (hmode : s.cfg.keyWaitMode = .designatedVx) (k : Reg)
    (hk : k.val = (s.reg x).toNat) :
    exec (.ldVxK x) s = .next (if s.keyDown k = true then s.advance else s) := by
  rw [exec_ldVxK_designatedVx x s hmode, keyOf_eq_of_val_eq (s.reg x) k hk,
    attempt_operandFault_inRange s _ .key (s.reg x) (hk ▸ Nat.le_of_lt_succ k.isLt)]

theorem OnlyPc.refl (s : State) : OnlyPc s s := ⟨rfl, fun _ => rfl⟩

theorem State.advance_onlyPc (s : State) : OnlyPc s s.advance := ⟨rfl, fun _ => rfl⟩

/-- Settles O39: a key's number passes the check, and the next state is the advance when that key is down and the same state
when it is not. -/
theorem waitForDesignatedKey : Obligations.WaitForDesignatedKey := by
  intro x s hmode
  refine ⟨exec_ldVxK_designatedVx_outOfRange x s hmode, fun k hk =>
    ⟨_, exec_ldVxK_designatedVx_key x s hmode k hk, ?_⟩⟩
  by_cases hdown : s.keyDown k = true
  case pos =>
    rw [if_pos hdown, if_pos hdown]
    exact ⟨s.advance_onlyPc, s.advance_pc⟩
  case neg =>
    rw [if_neg hdown, if_neg hdown]
    exact ⟨OnlyPc.refl s, rfl⟩

end Sys2Proof.Machine
end

section
/-!
PROOFS. TICK and SETKEY (60_exceptions R192, R193): one timer's decrement, a key's level after one is set, what the two ports
answer, and the statements on them.
-/

namespace Sys2Proof.Machine

/-! ### TICK -/

/-- The decrement saturates at 0, as subtraction on `Nat` does (60_exceptions R192). -/
@[simp] theorem tickDown_toNat (b : Byte) : (tickDown b).toNat = b.toNat - 1 := by
  rw [tickDown]
  split
  case isTrue hzero => rw [hzero]; rfl
  case isFalse hpos =>
    have hone : 1 ≤ b.toNat := Nat.one_le_iff_ne_zero.mpr (BitVec.toNat_ne.mp hpos)
    exact BitVec.toNat_sub_of_le (BitVec.le_def.mpr hone)

/-- Settles O55: each timer is `tickDown` of what it was, and TICK writes the timers alone. -/
theorem tickSaturates : Obligations.TickSaturates := fun s =>
  ⟨tickPort s, rfl, tickDown_toNat s.dt, tickDown_toNat s.st, rfl⟩

/-! ### SETKEY -/

theorem State.keyDown_setKey (s : State) (k j : Reg) (pressed : Bool) :
    State.keyDown { s with key := s.key.set k.val pressed } j = if j = k then pressed else s.keyDown j := by
  simp only [State.keyDown, Vector.get_eq_getElem, Vector.getElem_set, Fin.ext_iff, @eq_comm _ k.val j.val]

theorem setKeyPort_outOfRange (index : Nat) (pressed : Bool) (s : State) (hout : 15 < index) :
    setKeyPort index pressed s = (s, .rejected (.keyIndexOutOfRange index)) :=
  dif_neg (Nat.not_lt.mpr hout)

theorem setKeyPort_key (k : Reg) (pressed : Bool) (s : State) :
    setKeyPort k.val pressed s = ({ s with key := s.key.set k.val pressed }, .ok) :=
  dif_pos k.isLt

/-- Settles O56: an index above 15 fails the port's check, and a key's number passes it and sets that key alone
(`keyDown_setKey`). -/
theorem setKeySetsOneKey : Obligations.SetKeySetsOneKey := by
  refine fun index pressed s => ⟨setKeyPort_outOfRange index pressed s, ?_⟩
  rintro k rfl
  exact ⟨_, setKeyPort_key k pressed s, (s.keyDown_setKey k k pressed).trans (if_pos rfl),
    fun j hj => (s.keyDown_setKey k j pressed).trans (if_neg hj), rfl⟩

end Sys2Proof.Machine
end

section
/-!
PROOFS. LOAD (70_reset_and_hazards R204 to R206): where `PC` and `SP` are put, what the port answers to each title and size, the
memory an accepted program leaves, and the statement on the port.
-/

namespace Sys2Proof.Machine

/-! ### `PC` and `SP` after RESET and LOAD -/

/-- `PROG_BASE` lies below memory's end, so it fits in `PC` (10_state R13). -/
theorem resetPC_toNat (c : Config) (h : c.Wf) : (resetPC c).toNat = c.progBase := by
  obtain ⟨-, -, ⟨hlimit, hbase, hsize⟩, -, -, -, ⟨-, hpc⟩, -⟩ := h
  rw [resetPC, BitVec.toNat_ofNat, Nat.mod_eq_of_lt (by omega)]

/-- `STACK_BASE` fits in `SP` (10_state R14). -/
theorem resetSP_toNat (c : Config) (h : c.Wf) : (resetSP c).toNat = c.stackBase := by
  obtain ⟨-, -, -, -, -, -, ⟨hsp, -⟩, -⟩ := h
  rw [resetSP, BitVec.toNat_ofNat, Nat.mod_eq_of_lt hsp]

/-! ### What the port answers -/

theorem loadPort_none (s : State) : loadPort none s = (s, .rejected .unknownProgram) := rfl

theorem loadPort_tooLarge (p : Program) (s : State) (hlarge : s.cfg.progMax < p.bytes.length) :
    loadPort (some p) s = (s, .rejected (.programTooLarge p.bytes.length)) :=
  if_pos hlarge

theorem loadPort_fits (p : Program) (s : State) (hfits : p.bytes.length ≤ s.cfg.progMax) :
    loadPort (some p) s = (loaded p s, .ok) :=
  if_neg (Nat.not_lt.mpr hfits)

/-! ### The memory of an accepted LOAD -/

theorem loaded_readByte (p : Program) (s : State) (a : Nat) :
    (loaded p s).readByte a = (s.writeBytes s.cfg.progBase p.bytes).readByte a := rfl

theorem loaded_readByte_program (p : Program) (s : State) (k : Nat) (h : Memory.Wf s.cfg s.mem) (hk : k < p.bytes.length) :
    (loaded p s).readByte (s.cfg.progBase + k) = p.bytes.getD k 0 := by
  rw [loaded_readByte, s.readByte_writeBytes_at s.cfg.progBase p.bytes k h hk, List.getD_eq_getElem _ _ hk]

theorem loaded_sameMemoryOutside (p : Program) (s : State) (h : Memory.Wf s.cfg s.mem) :
    SameMemoryOutside s.cfg.progBase p.bytes.length s (loaded p s) :=
  s.writeBytes_sameMemoryOutside s.cfg.progBase p.bytes h

/-- Settles O54: the port's check against `PROG_MAX` decides which answer is given, and the next state of an accepted program is
`loaded`, whose memory is a store at `PROG_BASE`. -/
theorem loadPortPlacesTheProgram : Obligations.LoadPortPlacesTheProgram := by
  rintro p s ⟨hc, hm, -⟩
  refine ⟨loadPort_none s, loadPort_tooLarge p s, fun hfits => ⟨_, loadPort_fits p s hfits, ?_⟩⟩
  exact ⟨fun k hk => loaded_readByte_program p s k hm hk, loaded_sameMemoryOutside p s hm, resetPC_toNat s.cfg hc,
    resetSP_toNat s.cfg hc, rfl, rfl, rfl, rfl⟩

end Sys2Proof.Machine
end

section
/-!
PROOFS. The round trip of encode and decode (30_encoding R71 to R76): decoding by nibbles, format by format, and the statements on both
directions.
-/

namespace Sys2Proof

open Sys2Proof.Machine

/-! ### A word is decoded by its nibbles -/

theorem decodeWord_append (a b c d : Nibble) :
    decodeWord (a ++ b ++ c ++ d) =
      (decodeNibbles a b c d).elim (.error (.illegal (a ++ b ++ c ++ d))) .ok := by
  rw [decodeWord, opOf_append, xOf_append, yOf_append, nOf_append]
  cases decodeNibbles a b c d <;> rfl

theorem decodeWord_eq_ok {a b c d : Nibble} {i : Instr} :
    decodeWord (a ++ b ++ c ++ d) = .ok i ↔ decodeNibbles a b c d = some i := by
  rw [decodeWord_append]
  cases decodeNibbles a b c d <;> simp

theorem decodeWord_eq_illegal {a b c d : Nibble} :
    decodeWord (a ++ b ++ c ++ d) = .error (.illegal (a ++ b ++ c ++ d)) ↔ decodeNibbles a b c d = none := by
  rw [decodeWord_append]
  cases decodeNibbles a b c d <;> simp

/-! ### Decode of encode -/

/-- A word of format `NNN` decodes as its family does on the nibbles of `nnn` (30_encoding R72). -/
theorem decodeWord_nnn {a : Nibble} {family : Addr12 → Instr} (nnn : Addr12)
    (h : ∀ b c d, decodeNibbles a b c d = some (family (b ++ c ++ d))) : decodeWord (a ++ nnn) = .ok (family nnn) := by
  rw [nnn_nibbles, decodeWord_eq_ok, h, addr_of_nibbles]

/-- A word of format `XKK` decodes as its family does on `x` and the nibbles of `kk` (30_encoding R72). -/
theorem decodeWord_xkk {a : Nibble} {family : Reg → Byte → Instr} (x : Reg) (kk : Byte)
    (h : ∀ c d, decodeNibbles a (regBits x) c d = some (family x (c ++ d))) :
    decodeWord (a ++ regBits x ++ kk) = .ok (family x kk) := by
  rw [xkk_nibbles, decodeWord_eq_ok, h, byte_of_nibbles]

/-- A word of format `X` is one of format `XKK` whose `kk` selects the instruction (30_encoding R72). -/
theorem decodeWord_x {a : Nibble} {kk : Byte} {x : Reg} {i : Instr}
    (h : decodeNibbles a (regBits x) (kk.extractLsb' 4 4) (kk.extractLsb' 0 4) = some i) :
    decodeWord (a ++ regBits x ++ kk) = .ok i := by
  rw [xkk_nibbles, decodeWord_eq_ok, h]

theorem decodeWord_encode (i : Instr) : decodeWord (encode i) = .ok i := by
  cases i with
  | cls | ret => rfl
  | jp nnn | call nnn | ldI nnn | jpV0 nnn => exact decodeWord_nnn nnn fun _ _ _ => rfl
  | seByte x kk | sneByte x kk | ldByte x kk | addByte x kk | rnd x kk => exact decodeWord_xkk x kk fun _ _ => rfl
  | skp | sknp | ldVxDt | ldVxK | ldDtVx | ldStVx | addI | ldF | ldB | ldMemVx | ldVxMem => exact decodeWord_x rfl
  | _ => exact decodeWord_eq_ok.mpr rfl

theorem decodeBytes_wordBytes {w : Word} {i : Instr} (h : decodeWord w = .ok i) (rest : List Byte) :
    decodeBytes (wordBytes w ++ rest) = .ok (i, rest) := by
  rw [wordBytes, List.cons_append, List.cons_append, List.nil_append, decodeBytes, wordOfBytes_hi_lo, h]

/-- Settles O7: `decodeWord_encode` on the word, and the two bytes of a word are that word again. -/
theorem decodeOfEncode : Obligations.DecodeOfEncode := fun i rest =>
  ⟨decodeWord_encode i, decodeBytes_wordBytes (decodeWord_encode i) rest⟩

/-! ### Encode of decode -/

theorem append_kk (a b c d : Nibble) : (a ++ b ++ (c ++ d : Byte) : Word) = a ++ b ++ c ++ d :=
  (BitVec.append_assoc (x₁ := a ++ b)).symm

theorem append_nnn (a b c d : Nibble) : (a ++ (b ++ c ++ d : Addr12) : Word) = a ++ b ++ c ++ d := by
  have hbc : a ++ b ++ c = a ++ (b ++ c : Byte) := BitVec.append_assoc
  rw [hbc]
  exact (BitVec.append_assoc (x₂ := (b ++ c : Byte))).symm

/-- What four nibbles decode to is encoded by them. -/
theorem encode_of_decodeNibbles {a b c d : Nibble} {i : Instr} (h : decodeNibbles a b c d = some i) :
    encode i = a ++ b ++ c ++ d := by
  unfold decodeNibbles at h
  split at h
  case h_1 => -- family 0: CLS and RET
    rw [← append_nnn]
    split_ifs at h with hnnn hnnn
    all_goals
      cases h
      rw [hnnn]
      rfl
  case h_6 | h_10 => -- families 5 and 9: `n` = 0
    split_ifs at h with hn
    cases h
    rw [hn]
    rfl
  case h_9 => split at h <;> cases h <;> rfl -- family 8
  case h_15 | h_16 => -- families E and F, by `kk`
    rw [← append_kk]
    split at h <;> cases h
    all_goals
      rename_i hkk
      rw [hkk]
      rfl
  case h_17 => cases h
  case h_2 | h_3 | h_11 | h_12 => cases h; exact append_nnn _ b c d
  case h_4 | h_5 | h_7 | h_8 | h_13 => cases h; exact append_kk _ b c d
  case h_14 => cases h; rfl -- family D, of four nibbles

/-- Settles O8: a word is its four nibbles, and what they decode to is encoded by them. -/
theorem encodeOfDecode : Obligations.EncodeOfDecode := by
  intro w i h
  rw [← word_of_nibbles w] at h ⊢
  exact encode_of_decodeNibbles (decodeWord_eq_ok.mp h)

end Sys2Proof
end

section
/-!
PROOFS. Legal and illegal words (30_encoding R75 to R77): a word decodes iff it satisfies a row of the opcode table, no word satisfies
two, and the words that decode to nothing are those of the table of illegal words.
-/

namespace Sys2Proof

open Sys2Proof.Machine
open Sys2Proof.Claims

/-! ### Every instruction satisfies its row -/

open Sys2Proof.Laws.EncodesItsRow in
theorem rowMatches_encode : ∀ i : Instr, rowMatches (encode i) (rowOf i) = true
  | .cls => cls
  | .ret => ret
  | .jp nnn => jp nnn
  | .call nnn => call nnn
  | .seByte x kk => seByte x kk
  | .sneByte x kk => sneByte x kk
  | .seReg x y => seReg x y
  | .ldByte x kk => ldByte x kk
  | .addByte x kk => addByte x kk
  | .ldReg x y => ldReg x y
  | .orReg x y => orReg x y
  | .andReg x y => andReg x y
  | .xorReg x y => xorReg x y
  | .addReg x y => addReg x y
  | .sub x y => sub x y
  | .shr x y => shr x y
  | .subn x y => subn x y
  | .shl x y => shl x y
  | .sneReg x y => sneReg x y
  | .ldI nnn => ldI nnn
  | .jpV0 nnn => jpV0 nnn
  | .rnd x kk => rnd x kk
  | .drw x y n => drw x y n
  | .skp x => skp x
  | .sknp x => sknp x
  | .ldVxDt x => ldVxDt x
  | .ldVxK x => ldVxK x
  | .ldDtVx x => ldDtVx x
  | .ldStVx x => ldStVx x
  | .addI x => addI x
  | .ldF x => ldF x
  | .ldB x => ldB x
  | .ldMemVx x => ldMemVx x
  | .ldVxMem x => ldVxMem x

theorem rowOf_mem_opcodeRows (i : Instr) : rowOf i ∈ opcodeRows := by
  cases i <;> exact of_decide_eq_true rfl

/-! ### Every word that satisfies a row decodes -/

/-- Every word that satisfies the row decodes. -/
def RowDecodes (row : Word × Word) : Prop := ∀ w, rowMatches w row = true → ∃ i, decodeWord w = .ok i

theorem rowDecodes_word {m : Word} {i : Instr} (h : decodeWord m = .ok i) : RowDecodes (m, 0xFFFF) := by
  intro w hw
  have hm : w &&& BitVec.allOnes 16 = m := beq_iff_eq.mp hw
  rw [BitVec.and_allOnes] at hm
  exact ⟨i, hm ▸ h⟩

theorem exists_decodeWord_of_isSome {a b c d : Nibble} (h : (decodeNibbles a b c d).isSome) :
    ∃ i, decodeWord (a ++ b ++ c ++ d) = .ok i :=
  (Option.isSome_iff_exists.mp h).imp fun _ => decodeWord_eq_ok.mpr

theorem rowDecodes_of_nibbles {row : Word × Word}
    (h : ∀ a b c d : Nibble, (a ++ b ++ c ++ d : Word) &&& row.2 = row.1 → (decodeNibbles a b c d).isSome) :
    RowDecodes row := by
  intro w hw
  rw [← word_of_nibbles w] at hw ⊢
  exact exists_decodeWord_of_isSome (h _ _ _ _ (beq_iff_eq.mp hw))

theorem rowDecodes_op {m : Word} (h : ∀ b c d, (decodeNibbles (opOf m) b c d).isSome) : RowDecodes (m, 0xF000) := by
  refine rowDecodes_of_nibbles fun a b c d hmatch => ?_
  obtain rfl := (and_mask_op a b c d).symm.trans hmatch
  simpa using h b c d

theorem rowDecodes_op_n {m : Word} (h : ∀ b c, (decodeNibbles (opOf m) b c (nOf m)).isSome) : RowDecodes (m, 0xF00F) := by
  refine rowDecodes_of_nibbles fun a b c d hmatch => ?_
  obtain rfl := (and_mask_op_n a b c d).symm.trans hmatch
  simpa using h b c

theorem rowDecodes_op_kk {m : Word} (h : ∀ b, (decodeNibbles (opOf m) b (yOf m) (nOf m)).isSome) :
    RowDecodes (m, 0xF0FF) := by
  refine rowDecodes_of_nibbles fun a b c d hmatch => ?_
  obtain rfl := (and_mask_op_kk a b c d).symm.trans hmatch
  simpa using h b

theorem rowDecodes_rowOf (i : Instr) : RowDecodes (rowOf i) := by
  cases i with
  | cls => exact rowDecodes_word (decodeWord_encode .cls)
  | ret => exact rowDecodes_word (decodeWord_encode .ret)
  | jp | call | seByte | sneByte | ldByte | addByte | ldI | jpV0 | rnd | drw => exact rowDecodes_op fun _ _ _ => rfl
  | skp | sknp | ldVxDt | ldVxK | ldDtVx | ldStVx | addI | ldF | ldB | ldMemVx | ldVxMem =>
    exact rowDecodes_op_kk fun _ => rfl
  | _ => exact rowDecodes_op_n fun _ _ => rfl

/-- Every row is that of what its match word decodes to, so the table has no rows but those of the instructions. -/
theorem opcodeRows_map_rowOf :
    opcodeRows.map (fun row => (decodeWord row.1).toOption.map rowOf) = opcodeRows.map some := rfl

theorem exists_rowOf_eq {row : Word × Word} (h : row ∈ opcodeRows) : ∃ i, rowOf i = row := by
  have := List.map_inj_left.mp opcodeRows_map_rowOf row h
  obtain ⟨i, -, hi⟩ := Option.map_eq_some_iff.mp this
  exact ⟨i, hi⟩

theorem decodes_iff_exists_row (w : Word) :
    (∃ i, decodeWord w = .ok i) ↔ ∃ row ∈ opcodeRows, rowMatches w row = true := by
  constructor
  · rintro ⟨i, hi⟩
    exact ⟨rowOf i, rowOf_mem_opcodeRows i, encodeOfDecode w i hi ▸ rowMatches_encode i⟩
  · rintro ⟨row, hrow, hmatch⟩
    obtain ⟨i, rfl⟩ := exists_rowOf_eq hrow
    exact rowDecodes_rowOf i w hmatch

theorem decodeWord_eq_illegal_iff (w : Word) : decodeWord w = .error (.illegal w) ↔ ¬ ∃ i, decodeWord w = .ok i := by
  unfold decodeWord
  cases decodeNibbles (opOf w) (xOf w) (yOf w) (nOf w) <;> simp

/-! ### No word satisfies two rows -/

theorem not_rowMatches_both {w : Word} {p q : Word × Word} (h : p.1 &&& q.2 ≠ q.1 &&& p.2) :
    ¬ (rowMatches w p = true ∧ rowMatches w q = true) := by
  rintro ⟨hp, hq⟩
  have hp : w &&& p.2 = p.1 := beq_iff_eq.mp hp
  have hq : w &&& q.2 = q.1 := beq_iff_eq.mp hq
  apply h
  rw [← hp, ← hq, BitVec.and_assoc, BitVec.and_assoc, BitVec.and_comm p.2]

theorem opcodeRows_exclusive : opcodeRows.Pairwise (fun p q => p.1 &&& q.2 ≠ q.1 &&& p.2) := by
  decide

theorem length_matching_rows_le_one (w : Word) : (opcodeRows.filter (rowMatches w)).length ≤ 1 := by
  have hexclusive := opcodeRows_exclusive.filter (rowMatches w)
  match hrows : opcodeRows.filter (rowMatches w) with
  | [] | [_] => simp
  | p :: q :: rest =>
    have hmatch (row) (hrow : row ∈ p :: q :: rest) : rowMatches w row = true := List.of_mem_filter (hrows ▸ hrow)
    rw [hrows] at hexclusive
    have hpq := List.rel_of_pairwise_cons hexclusive List.mem_cons_self
    exact absurd ⟨hmatch p (by simp), hmatch q (by simp)⟩ (not_rowMatches_both hpq)

/-- Settles O9: a word decodes iff some row is satisfied, and never are two. -/
theorem legalWordsSatisfyOneRow : Obligations.LegalWordsSatisfyOneRow := by
  intro w
  have hone := length_matching_rows_le_one w
  have hsome : (∃ i, decodeWord w = .ok i) ↔ 0 < (opcodeRows.filter (rowMatches w)).length := by
    rw [decodes_iff_exists_row, List.length_filter_pos_iff]
  rw [decodeWord_eq_illegal_iff, hsome]
  omega

/-! ### The illegal words, family by family: the family, `n`, `kk` and `nnn` as numbers -/

theorem append4_div_4096 (a b c d : Nibble) : (a ++ b ++ c ++ d : Word).toNat / 4096 = a.toNat := by
  rw [append4_toNat]
  omega

theorem append4_mod_16 (a b c d : Nibble) : (a ++ b ++ c ++ d : Word).toNat % 16 = d.toNat := by
  rw [append4_toNat]
  omega

theorem append4_mod_256 (a b c d : Nibble) : (a ++ b ++ c ++ d : Word).toNat % 256 = (c ++ d : Byte).toNat := by
  rw [← append_kk, BitVec.toNat_append, Nat.or_mod_two_pow (n := 8)]
  simp [Nat.shiftLeft_eq]
  omega

theorem append4_toNat_family_zero (b c d : Nibble) : (0#4 ++ b ++ c ++ d : Word).toNat = (b ++ c ++ d : Addr12).toNat := by
  rw [← append_nnn, BitVec.toNat_append]
  simp

theorem decodeNibbles_eq_none (a b c d : Nibble) :
    decodeNibbles a b c d = none ↔ illegalByFamily (a ++ b ++ c ++ d) := by
  rw [illegalByFamily, append4_div_4096, append4_mod_16, append4_mod_256]
  unfold decodeNibbles
  split
  case h_1 => -- family 0
    rw [append4_toNat_family_zero]
    split_ifs <;> simp_all [BitVec.toNat_eq]
  case h_6 | h_10 => simp [BitVec.toNat_eq] -- families 5 and 9
  case h_9 => -- family 8
    split <;> simp_all [BitVec.toNat_eq]
    omega
  case h_15 | h_16 => -- families E and F
    split <;> simp_all [BitVec.toNat_eq]
  case h_17 => -- no nibble is left for another family
    simp_all [BitVec.toNat_eq]
    omega
  all_goals simp

/-- Settles O10: `decodeNibbles_eq_none` on the word's four nibbles. -/
theorem illegalWordsByFamily : Obligations.IllegalWordsByFamily := by
  intro w
  rw [← word_of_nibbles w, decodeWord_eq_illegal, decodeNibbles_eq_none]

/-- Settles O6: the legal words are encodings of their instructions, and the four others decode to none. -/
theorem specWordsDecode : Obligations.SpecWordsDecode :=
  ⟨decodeWord_encode .cls, decodeWord_encode .ret, decodeWord_encode (.jp 0xABC), decodeWord_encode (.seByte 3 0x2A),
    decodeWord_encode (.seReg 10 11), decodeWord_encode (.addReg 10 11), decodeWord_encode (.shl 10 11),
    decodeWord_encode (.drw 1 2 15), decodeWord_encode (.skp 10), decodeWord_encode (.ldVxMem 10),
    rfl, rfl, rfl, rfl⟩

end Sys2Proof
end

section
/-!
PROOFS. The step (40_step R90; 60_exceptions R173, R174, R176, R177, R179): what it refuses, what it fails with before
it executes anything, the instruction it runs, what a failing step leaves, and the statements on the step, on the STEP port and on
what clears a failure.
-/

namespace Sys2Proof.Machine

open Sys2Proof.Claims

/-! ### Refusals -/

theorem step_illFormed {s : State} (hc : ¬ s.cfg.Wf) : step s = .refused .illFormedConfig := if_neg hc

theorem step_ne_refused {s : State} (hc : s.cfg.Wf) (r : Refusal) : step s ≠ .refused r := by
  rcases step_cases s with ⟨hn, -⟩ | ⟨-, cause, -, e⟩ | ⟨-, -, cause, -, e⟩ | ⟨-, -, i, -, e⟩
  · exact absurd hc hn
  · rw [e]
    exact nofun
  · rw [e]
    exact nofun
  · obtain ⟨t, ht⟩ := exec_next i s
    rw [e, ht]
    exact nofun

/-- Settles O3: an ill-formed configuration is refused at once, and no instruction answers a refusal (`exec_next`). -/
theorem illFormedConfigIsRefused : Obligations.IllFormedConfigIsRefused := fun _ =>
  ⟨⟨fun ⟨r, hr⟩ hc => step_ne_refused hc r hr, fun hc => ⟨_, step_illFormed hc⟩⟩, step_illFormed⟩

/-! ### Fetch -/

theorem fetchFault_misaligned {s : State} (hstrict : s.cfg.strictAlign = true) (hodd : s.pc.toNat % 2 = 1) :
    fetchFault s = some (.misalignedPC s.pc) := if_pos ⟨hstrict, hodd⟩

theorem fetchFault_outside {s : State} (heven : s.cfg.strictAlign = true → s.pc.toNat % 2 = 0)
    (hout : s.cfg.memSize < s.pc.toNat + 2) : fetchFault s = some (.memoryOutOfBounds .fetch s.pc.toNat) := by
  rw [fetchFault, if_neg (fun ⟨hstrict, hodd⟩ => by have := heven hstrict; omega), if_pos hout]

theorem fetchInstr_of_fetchFault {s : State} {cause : Fault} (h : fetchFault s = some cause) :
    fetchInstr s = .error cause := by
  rw [fetchInstr, h]

theorem fetchInstr_illegal {s : State} (hfetch : fetchFault s = none) (hword : illegalByFamily (fetchWord s)) :
    fetchInstr s = .error (.unimplementedInstruction (fetchWord s)) := by
  rw [fetchInstr, hfetch, (illegalWordsByFamily _).mpr hword]

/-- Settles O5: each failure of fetch or decode, in the order in which `fetchFault` and `fetchInstr` test for them. -/
theorem failuresBeforeExecution : Obligations.FailuresBeforeExecution := by
  refine fun s hc => ⟨fun cause => step_latched s cause hc, ?misaligned, ?outside, ?illegal⟩
  case misaligned =>
    intro hf hstrict hodd
    exact step_of_fetch_error s _ hc hf (fetchInstr_of_fetchFault (fetchFault_misaligned hstrict hodd))
  case outside =>
    intro hf heven hout
    exact step_of_fetch_error s _ hc hf (fetchInstr_of_fetchFault (fetchFault_outside heven hout))
  case illegal =>
    intro hf heven hin hword
    exact step_of_fetch_error s _ hc hf (fetchInstr_illegal ((fetchFault_eq_none s).mpr ⟨heven, hin⟩) hword)

/-! ### The fetched instruction -/

theorem decodeWord_of_decodeBytes {hi lo : Byte} {i : Instr} {rest : List Byte}
    (h : decodeBytes [hi, lo] = .ok (i, rest)) : decodeWord (wordOfBytes hi lo) = .ok i := by
  rw [decodeBytes] at h
  split at h
  · cases h
    assumption
  · cases h

/-- Settles O4: a fetch that meets no failure gives the instruction the two bytes at `PC` decode to. -/
theorem stepRunsTheFetchedInstruction : Obligations.StepRunsTheFetchedInstruction := by
  intro s i hc hf heven hin hdecode
  exact step_of_fetch s i hc hf
    ((fetchInstr_ok s i).mpr ⟨(fetchFault_eq_none s).mpr ⟨heven, hin⟩, decodeWord_of_decodeBytes hdecode⟩)

theorem decodeWord_of_decodeTableWord {nbits w : Nat} {i : Instr} (h : decodeTableWord nbits w = some i) :
    decodeWord (tableWord nbits w) = .ok i := by
  rw [decodeTableWord] at h
  split at h
  case h_1 j rest hbytes =>
    rw [wordBytes] at hbytes
    cases h
    simpa using decodeWord_of_decodeBytes hbytes
  case h_2 => cases h

theorem standardConfig_wf : standardConfig.Wf := by decide

/-- At reset the placed word is what a fetch reads: `PC` is even and its two bytes lie in memory. -/
theorem fetchInstr_placed {w : Word} {i : Instr} (h : decodeWord w = .ok i) :
    fetchInstr (placeWord State.reset w) = .ok i := by
  have hplaced : placeWord State.reset w = State.reset.writeWord State.reset.pc.toNat w := if_pos (by decide)
  have hword : fetchWord (State.reset.writeWord State.reset.pc.toNat w) = w :=
    State.reset.readWord_writeWord _ w (Memory.nil_wf _)
  rw [hplaced, fetchInstr_ok, fetchFault_eq_none, hword]
  refine ⟨?_, h⟩
  rw [State.writeWord_cfg, State.writeWord_pc]
  decide

/-- Settles O11: the word read at the reset `PC` is the one placed there. -/
theorem placedWordRunsFirst : Obligations.PlacedWordRunsFirst := by
  intro w i h
  have hfetch := fetchInstr_placed (decodeWord_of_decodeTableWord h)
  exact step_of_fetch _ i standardConfig_wf rfl hfetch

/-- Settles O2: no instruction stands at the reset `PC`, which holds 0x0000. -/
theorem bareStepAfterResetFails : Obligations.BareStepAfterResetFails := by
  have hword : fetchWord State.reset = 0x0000 := by decide
  have hfetch := fetchInstr_illegal (s := State.reset) ((fetchFault_eq_none _).mpr (by decide)) (.inl (by decide))
  exact ⟨rfl, hword, hword ▸ step_of_fetch_error State.reset _ standardConfig_wf rfl hfetch⟩

/-! ### A failing step, and STEP -/

/-- An instruction that leaves a latched failure has changed nothing else, since its effect does not touch the latch. -/
theorem exec_failed {i : Instr} {s t : State} {cause : Fault} (hf : s.fault = none) (h : exec i s = .next t)
    (hfailed : t.fault = some cause) : t = failedWith cause s := by
  obtain ⟨failure, effect, hexec, hlatch, -⟩ := exec_attempt i s
  rw [hexec, attempt_eq_next] at h
  rcases h with ⟨cause', -, rfl⟩ | ⟨-, rfl⟩
  · cases hfailed
    rfl
  · rw [hlatch, hf] at hfailed
    cases hfailed

/-- Settles O41: a failure of fetch or decode is latched by `failedWith`, and one of an instruction by `exec_failed`. -/
theorem failuresArePrecise : Obligations.FailuresArePrecise := by
  intro s t cause hstep hfailed
  obtain ⟨-, hf, ⟨cause', -, rfl⟩ | ⟨i, -, hexec⟩⟩ := step_next s t hstep
  · cases hfailed
    rfl
  · exact exec_failed hf hexec hfailed

theorem stepPort_success {s t : State} (hstep : step s = .next t) (ht : t.fault = none) : stepPort s = (t, .success) := by
  simp only [stepPort, hstep, ht]

theorem stepPort_failed {s t : State} {cause : Fault} (hstep : step s = .next t) (ht : t.fault = some cause) :
    stepPort s = (t, .failed cause) := by
  simp only [stepPort, hstep, ht]

theorem stepPort_latched {s : State} {cause : Fault} (hc : s.cfg.Wf) (hf : s.fault = some cause) :
    stepPort s = (s, .failed cause) := by
  simp only [stepPort, step_latched s cause hc hf]

/-- Settles O60: the reply is read off the latch of the next state, and that state is precise (`failuresArePrecise`). -/
theorem stepPortReportsTheOutcome : Obligations.StepPortReportsTheOutcome := fun s t hstep =>
  ⟨stepPort_success hstep, fun cause ht => ⟨stepPort_failed hstep ht, failuresArePrecise s t cause hstep ht⟩⟩

/-- Settles O58: STEP answers the latched cause, and TICK and SETKEY write the timers and one key alone. -/
theorem failedMachineUnderTheHost : Obligations.FailedMachineUnderTheHost := fun s _ k pressed hc hf =>
  ⟨stepPort_latched hc hf, ⟨tickPort s, rfl, hf, tickDown_toNat s.dt, tickDown_toNat s.st⟩,
    ⟨_, setKeyPort_key k pressed s, hf, (s.keyDown_setKey k k pressed).trans (if_pos rfl)⟩⟩

/-! ### What clears a failure -/

theorem stepPort_keeps_failure {s : State} {cause : Fault} (hf : s.fault = some cause) :
    (stepPort s).1.fault = some cause := by
  by_cases hc : s.cfg.Wf
  · rw [stepPort_latched hc hf, hf]
  · rw [stepPort, step_illFormed hc, hf]

theorem setKeyPort_fault (index : Nat) (pressed : Bool) (s : State) : (setKeyPort index pressed s).1.fault = s.fault := by
  unfold setKeyPort
  split <;> rfl

/-- An operation that is no RESET and no LOAD of a known title leaves the latch as it is. -/
theorem applyOp_keeps_failure {op : HostOp} {s : State} {cause : Fault} (hf : s.fault = some cause) (hreset : op ≠ .reset)
    (hload : ∀ p, op ≠ .load (some p)) : (applyOp op s).1.fault = some cause := by
  cases op with
  | reset => exact absurd rfl hreset
  | load found =>
    cases found with
    | none => exact hf
    | some p => exact absurd rfl (hload p)
  | step => exact stepPort_keeps_failure hf
  | setKey index pressed => exact (setKeyPort_fault index pressed s).trans hf
  | tick | memView | dispView | stView => exact hf

/-- A LOAD of a known title that fits is performed and clears the latch; a longer one is refused and changes nothing. -/
theorem load_performed_or_refused (p : Program) (s : State) :
    ((applyOp (.load (some p)) s).2 = .ok ∧ (applyOp (.load (some p)) s).1.fault = none) ∨
      ((applyOp (.load (some p)) s).2 ≠ .ok ∧ (applyOp (.load (some p)) s).1 = s) := by
  rw [applyOp]
  rcases Nat.lt_or_ge s.cfg.progMax p.bytes.length with hlarge | hfits
  · rw [loadPort_tooLarge p s hlarge]
    exact .inr ⟨nofun, rfl⟩
  · rw [loadPort_fits p s hfits]
    exact .inl ⟨rfl, rfl⟩

/-- Settles O59: RESET and a performed LOAD (`load_performed_or_refused`) leave no failure; `applyOp_keeps_failure` is for the
rest. -/
theorem onlyResetAndLoadClearFailures : Obligations.OnlyResetAndLoadClearFailures := by
  intro op s cause hf
  by_cases hreset : op = .reset
  · subst hreset
    exact ⟨fun _ => rfl, fun hn => absurd (.inl rfl) hn⟩
  by_cases hload : ∃ p, op = .load (some p)
  · obtain ⟨p, rfl⟩ := hload
    rcases load_performed_or_refused p s with ⟨hok, hnone⟩ | ⟨hrefused, hsame⟩
    · exact ⟨fun _ => hnone, fun hn => absurd (.inr ⟨⟨p, rfl⟩, hok⟩) hn⟩
    · refine ⟨fun hclears => ?_, fun _ => (congrArg State.fault hsame).trans hf⟩
      obtain hreset' | ⟨-, hok⟩ := hclears
      · exact absurd hreset' hreset
      · exact absurd hok hrefused
  · refine ⟨fun hclears => ?_, fun _ => applyOp_keeps_failure hf hreset (not_exists.mp hload)⟩
    obtain hreset' | ⟨hload', -⟩ := hclears
    · exact absurd hreset' hreset
    · exact absurd hload' hload

end Sys2Proof.Machine
end

section
/-!
PROOFS. Every instruction as one check and one effect (60_exceptions R176). `failureOf` and `effectOf` say which, and
`exec_eq_attempt` ties them to `exec`. The effects are written so that a field an instruction leaves alone is the old one by
definition: the frames of all instructions are then read off `effectOf`.
-/

namespace Sys2Proof.Machine

/-! ### The check and the effect -/

/-- What stops an instruction (60_exceptions R171, the table). -/
def failureOf (s : State) : Instr → Option Fault
  | .call _ => pushFault s
  | .ret => popFault s
  | .drw _ _ n => spriteFault s n
  | .skp x | .sknp x => operandFault .key (s.reg x)
  | .ldVxK x => if s.cfg.keyWaitMode = .designatedVx then operandFault .key (s.reg x) else none
  | .ldF x => operandFault .font (s.reg x)
  | .ldB _ => dataFault s s.i.toNat 3
  | .ldMemVx x | .ldVxMem x => dataFault s s.i.toNat (x.val + 1)
  | _ => none

/-- Whether Fx0A finds the key it waits for (44_keypad_and_timers R162, R163). -/
def waitEnds (s : State) (x : Reg) : Bool :=
  match s.cfg.keyWaitMode with
  | .anyKeyLowest => (leastKey s).isSome
  | .designatedVx => s.keyDown (keyOf (s.reg x))

/-- The general registers after Fx0A: `V[x]` takes the least pressed key, if that is the mode and there is one. -/
def waitRegs (s : State) (x : Reg) : Vector Byte 16 :=
  match s.cfg.keyWaitMode with
  | .anyKeyLowest => (leastKey s).elim s.v fun k => s.v.set x (BitVec.ofNat 8 k.val)
  | .designatedVx => s.v

/-- The general registers after a load of `V[0]`..`V[x]` (42_index_and_memory R135), register `r` from `bytes r`. Irreducible
so that no unification unfolds the 16 registers; `loadedRegs_get` gives each. -/
@[irreducible] def loadedRegs (v : Vector Byte 16) (bytes : Nat → Byte) (x : Reg) : Vector Byte 16 :=
  Vector.ofFn fun r : Reg => if r.val < x.val + 1 then bytes r.val else v.get r

/-- `PC` past this instruction, and past the next one when the condition holds (40_step_and_control_flow section 4). -/
def State.skipped (s : State) (cond : Prop) [Decidable cond] : State := s.jump (if cond then s.pc + 4 else s.pc + 2)

/-- What an instruction that nothing stops makes of the state (40_step R90 line 8). -/
def effectOf (s : State) : Instr → State
  | .cls => ((s.snapshot.writeFrame s.cfg.fbAuthBase blankFrame).writeBytes s.cfg.fbDispBase (clearedDisplay s)).advance
  | .ret => s.pop.jump s.top
  | .jp nnn => s.jump (zext16 nnn)
  | .call nnn => (s.push (s.pc + 2)).jump (zext16 nnn)
  | .seByte x kk => s.skipped (s.reg x = kk)
  | .sneByte x kk => s.skipped (s.reg x ≠ kk)
  | .seReg x y => s.skipped (s.reg x = s.reg y)
  | .ldByte x kk => (s.setReg x kk).advance
  | .addByte x kk => (s.setReg x (s.reg x + kk)).advance
  | .ldReg x y => (s.setReg x (s.reg y)).advance
  | .orReg x y => (s.setReg x (s.reg x ||| s.reg y)).advance
  | .andReg x y => (s.setReg x (s.reg x &&& s.reg y)).advance
  | .xorReg x y => (s.setReg x (s.reg x ^^^ s.reg y)).advance
  | .addReg x y => (s.setResultFlag x (s.reg x + s.reg y) (carry (s.reg x) (s.reg y))).advance
  | .sub x y => (s.setResultFlag x (s.reg x - s.reg y) (notBorrow (s.reg x) (s.reg y))).advance
  | .shr x y => (s.setResultFlag x (shiftSource s x y >>> 1) (shiftedOutRight (shiftSource s x y))).advance
  | .subn x y => (s.setResultFlag x (s.reg y - s.reg x) (notBorrow (s.reg y) (s.reg x))).advance
  | .shl x y => (s.setResultFlag x (shiftSource s x y <<< 1) (shiftedOutLeft (shiftSource s x y))).advance
  | .sneReg x y => s.skipped (s.reg x ≠ s.reg y)
  | .ldI nnn => (s.setI (zext16 nnn)).advance
  | .jpV0 nnn => s.jump (zext16 nnn + zextByte (s.reg 0))
  | .rnd x kk => (s.drawn.setReg x (Config.randomByte s.draws &&& kk)).advance
  | .drw x y n =>
    (((s.snapshot.writeFrame s.cfg.fbAuthBase (drawResult s x y n).1).writeFrame s.cfg.fbDispBase
      (blend s.authFrame (drawResult s x y n).1)).setFlag (drawResult s x y n).2).advance
  | .skp x => s.skipped (s.keyDown (keyOf (s.reg x)) = true)
  | .sknp x => s.skipped (s.keyDown (keyOf (s.reg x)) ≠ true)
  | .ldVxDt x => (s.setReg x s.dt).advance
  | .ldVxK x => { s with v := waitRegs s x, pc := if waitEnds s x then s.pc + 2 else s.pc }
  | .ldDtVx x => { s with dt := s.reg x, pc := s.pc + 2 }
  | .ldStVx x => { s with st := s.reg x, pc := s.pc + 2 }
  | .addI x => (s.setI (s.i + zextByte (s.reg x))).advance
  | .ldF x => (s.setI (glyphAddr s (s.reg x))).advance
  | .ldB x => (s.writeBytes s.i.toNat (bcdDigits (s.reg x))).advance
  | .ldMemVx x => ((s.writeBytes s.i.toNat (regBytes s x)).setI (bulkIndex s x)).advance
  | .ldVxMem x => { s with v := loadedRegs s.v (fun k => s.readByte (s.i.toNat + k)) x, i := bulkIndex s x, pc := s.pc + 2 }

/-! ### The ties to `exec` -/

theorem State.skipIf_eq_skipped (s : State) (c : Bool) (cond : Prop) [Decidable cond] (h : c = true ↔ cond) :
    s.skipIf c = s.skipped cond := by
  rw [State.skipIf_eq, State.skipped, State.jump]
  simp only [h]

theorem exec_ldVxK_eq_attempt (x : Reg) (s : State) :
    exec (.ldVxK x) s = attempt s (failureOf s (.ldVxK x)) (effectOf s (.ldVxK x)) := by
  rw [exec, execLdVxK, failureOf, effectOf, waitEnds, waitRegs]
  cases s.cfg.keyWaitMode with
  | anyKeyLowest =>
    rw [waitAnyKey]
    cases leastKey s <;> rfl
  | designatedVx =>
    rw [waitDesignatedKey]
    cases s.keyDown (keyOf (s.reg x)) <;> rfl

theorem loadedRegs_get (v : Vector Byte 16) (bytes : Nat → Byte) (x r : Reg) :
    (loadedRegs v bytes x).get r = if r.val < x.val + 1 then bytes r.val else v.get r := by
  rw [loadedRegs, Vector.get_eq_getElem, Vector.getElem_ofFn]

theorem setRegs_readBytes_v (s : State) (x : Reg) (a : Nat) :
    (s.setRegs 0 (s.readBytes a (x.val + 1))).v = loadedRegs s.v (fun k => s.readByte (a + k)) x := by
  refine Vector.ext fun k hk => ?_
  have hload := s.reg_setRegs_readBytes a (x.val + 1) x.isLt ⟨k, hk⟩
  exact hload.trans (loadedRegs_get s.v (fun k => s.readByte (a + k)) x ⟨k, hk⟩).symm

theorem exec_eq_attempt (i : Instr) (s : State) : exec i s = attempt s (failureOf s i) (effectOf s i) := by
  cases i with
  | seByte | seReg => exact congrArg (attempt s none) (s.skipIf_eq_skipped _ _ beq_iff_eq)
  | sneByte | sneReg => exact congrArg (attempt s none) (s.skipIf_eq_skipped _ _ bne_iff_ne)
  | skp x => exact congrArg (attempt s (operandFault .key (s.reg x))) (s.skipIf_eq_skipped _ _ Iff.rfl)
  | sknp x => exact congrArg (attempt s (operandFault .key (s.reg x))) (s.skipIf_eq_skipped _ _ (by simp))
  | ldVxK x => exact exec_ldVxK_eq_attempt x s
  | ldVxMem x =>
    rw [exec_ldVxMem, State.setRegs_frame, setRegs_readBytes_v]
    rfl
  | _ => rfl

theorem exec_effect {i : Instr} {s : State} (h : failureOf s i = none) : exec i s = .next (effectOf s i) := by
  rw [exec_eq_attempt, h, attempt_none]

theorem exec_failure {i : Instr} {s : State} {cause : Fault} (h : failureOf s i = some cause) :
    exec i s = .next (failedWith cause s) := by
  rw [exec_eq_attempt, h, attempt_some]

/-- All an instruction can answer: its failure's entry or its effect. -/
theorem exec_eq_next {i : Instr} {s t : State} (h : exec i s = .next t) :
    (∃ cause, failureOf s i = some cause ∧ t = failedWith cause s) ∨ (failureOf s i = none ∧ t = effectOf s i) := by
  rwa [exec_eq_attempt, attempt_eq_next] at h

theorem effectOf_fault (i : Instr) (s : State) : (effectOf s i).fault = s.fault := by
  cases i <;> rfl

theorem effectOf_cfg (i : Instr) (s : State) : (effectOf s i).cfg = s.cfg := by
  cases i <;> rfl

end Sys2Proof.Machine
end

section
/-!
PROOFS. What every instruction does and leaves alone, read off `failureOf` and `effectOf`: its failures (60_exceptions R171), `PC`
(40_step R93), memory (20_memory R52), the host's state (10_state R17, R18), the special registers and VF (R30), and the components
that influence nothing or their own family alone (43_display R150; 10_state R18).
-/

namespace Sys2Proof.Machine

open Sys2Proof.Claims

/-! ### Failures -/

theorem pushFault_eq_some_iff {s : State} (h : s.Inv) (cause : Fault) :
    pushFault s = some cause ↔ s.sp.toNat = s.cfg.stackLimit ∧ cause = .stackBounds .onCall := by
  by_cases hfull : s.sp.toNat = s.cfg.stackLimit
  · simp [pushFault_full s (by omega), hfull, eq_comm]
  · have hroom := h.room_of_not_full hfull
    obtain ⟨hc, -, -, -, hle⟩ := h
    simp [pushFault_eq_none s hc hroom hle, hfull]

theorem popFault_eq_some_iff {s : State} (h : s.Inv) (cause : Fault) :
    popFault s = some cause ↔ s.sp.toNat = s.cfg.stackBase ∧ cause = .stackBounds .onReturn := by
  by_cases hempty : s.sp.toNat = s.cfg.stackBase
  · simp [popFault_empty s (by omega), hempty, eq_comm]
  · simp [popFault_eq_none s h.1 (h.entry_of_not_empty hempty), hempty]

theorem spriteFault_eq_some_iff (s : State) (n : Nibble) (cause : Fault) :
    spriteFault s n = some cause ↔ n ≠ 0 ∧ s.cfg.memSize < s.i.toNat + n.toNat ∧ cause = dataOut s := by
  rw [spriteFault]
  split
  case isTrue hzero => simp [hzero]
  case isFalse hpos =>
    rw [dataFault_eq_some, ne_eq, and_iff_right hpos]
    rfl

theorem failureOf_eq_some_iff {s : State} (h : s.Inv) (cause : Fault) (i : Instr) :
    failureOf s i = some cause ↔ raises s cause i := by
  cases i with
  | call => exact pushFault_eq_some_iff h cause
  | ret => exact popFault_eq_some_iff h cause
  | drw x y n => exact spriteFault_eq_some_iff s n cause
  | skp x | sknp x => exact operandFault_eq_some .key (s.reg x) cause
  | ldF x => exact operandFault_eq_some .font (s.reg x) cause
  | ldB => exact dataFault_eq_some s s.i.toNat 3 cause
  | ldMemVx x | ldVxMem x => exact dataFault_eq_some s s.i.toNat (x.val + 1) cause
  | ldVxK x =>
    exact Option.ite_none_right_eq_some.trans (and_congr_right fun _ => operandFault_eq_some .key (s.reg x) cause)
  | _ => exact ⟨nofun, nofun⟩

/-- Settles O42: an instruction of an unlatched machine latches just what `failureOf` says, which is the table's cause. -/
theorem failuresByInstruction : Obligations.FailuresByInstruction := by
  intro i s cause hinv hf
  rw [exec_eq_attempt, attempt_fails s _ _ cause hf (effectOf_fault i s), failureOf_eq_some_iff hinv]

/-- An instruction that leaves no failure has met none: the next state is its effect. -/
theorem next_eq_effectOf {i : Instr} {s t : State} (h : exec i s = .next t) (ht : t.fault = none) :
    failureOf s i = none ∧ t = effectOf s i := by
  obtain ⟨cause, -, rfl⟩ | heffect := exec_eq_next h
  · cases ht
  · exact heffect

/-! ### `PC` -/

theorem jpV0_target_toNat (nnn : Addr12) (b : Byte) : (zext16 nnn + zextByte b).toNat = nnn.toNat + b.toNat := by
  have hfits : nnn.toNat + b.toNat < 65536 := by omega
  rw [BitVec.toNat_add, zext16_toNat, zextByte_toNat, Nat.mod_eq_of_lt hfits]

/-- A register value in range names one key, and that one is down iff a key of that number is. -/
theorem keyDown_keyOf_iff {s : State} {x : Reg} (h : operandFault .key (s.reg x) = none) :
    s.keyDown (keyOf (s.reg x)) = true ↔ ∃ k : Reg, k.val = (s.reg x).toNat ∧ s.keyDown k = true := by
  have hin := (operandFault_eq_none .key (s.reg x)).mp h
  constructor
  · exact fun hdown => ⟨_, keyOf_val _ hin, hdown⟩
  · rintro ⟨k, hk, hdown⟩
    rwa [keyOf_eq_of_val_eq (s.reg x) k hk]

theorem leastKey_isSome_iff (s : State) : (leastKey s).isSome = true ↔ ∃ k : Reg, s.keyDown k = true := by
  rw [← Option.ne_none_iff_isSome, ne_eq, leastKey_eq_none]
  simp

theorem pcAfter_ldVxK {s : State} {x : Reg} (h : failureOf s (.ldVxK x) = none) :
    pcAfter s (effectOf s (.ldVxK x)) (.ldVxK x) := by
  have hcheck : (if s.cfg.keyWaitMode = .designatedVx then operandFault .key (s.reg x) else none) = none := h
  rw [pcAfter, effectOf, waitEnds]
  cases hmode : s.cfg.keyWaitMode with
  | anyKeyLowest => simp only [leastKey_isSome_iff]
  | designatedVx =>
    rw [if_pos hmode] at hcheck
    simp only [keyDown_keyOf_iff hcheck]

theorem pcAfter_effectOf {s : State} {i : Instr} (h : failureOf s i = none) : pcAfter s (effectOf s i) i := by
  cases i with
  | jp nnn | call nnn => exact zext16_toNat nnn
  | ret => exact s.top_toNat
  | jpV0 nnn => exact jpV0_target_toNat nnn (s.reg 0)
  | skp x => simp only [pcAfter, effectOf, State.skipped, State.jump_pc, keyDown_keyOf_iff h]
  | sknp x => simp only [pcAfter, effectOf, State.skipped, State.jump_pc, keyDown_keyOf_iff h, ite_not, ne_eq]
  | ldVxK x => exact pcAfter_ldVxK h
  | _ => rfl

/-- Settles O43: a success leaves `PC` where the effect does (`pcAfter_effectOf`), and a failure's entry keeps it. -/
theorem pcAfterEachInstruction : Obligations.PcAfterEachInstruction := by
  intro i s t hf h
  refine ⟨fun ht => ?success, fun ht => ?failure⟩
  case success =>
    obtain ⟨hnone, rfl⟩ := next_eq_effectOf h ht
    exact pcAfter_effectOf hnone
  case failure =>
    obtain ⟨cause, -, rfl⟩ | ⟨-, rfl⟩ := exec_eq_next h
    · rfl
    · exact absurd ((effectOf_fault i s).trans hf) ht

/-! ### Memory -/

theorem effectOf_mem {i : Instr} (s : State) (h : storesToMemory i = false) : (effectOf s i).mem = s.mem := by
  cases i with
  | call | ldB | ldMemVx | drw | cls => cases h
  | _ => rfl

/-- Settles O44: a failure's entry stores nothing, nor does an effect outside the table's rows (`effectOf_mem`). -/
theorem onlyStoringInstructionsWriteMemory : Obligations.OnlyStoringInstructionsWriteMemory := by
  intro i s t hstores h
  obtain ⟨cause, -, rfl⟩ | ⟨-, rfl⟩ := exec_eq_next h
  · exact ⟨fun _ => rfl, rfl⟩
  · have hmem := effectOf_mem s hstores
    exact ⟨State.readByte_congr _ _ hmem (effectOf_cfg i s), hmem⟩

/-! ### The host's state, the special registers, VF -/

theorem effectOf_key (s : State) (i : Instr) : (effectOf s i).key = s.key := by cases i <;> rfl

theorem effectOf_shiftQuirk (s : State) (i : Instr) : (effectOf s i).shiftQuirk = s.shiftQuirk := by cases i <;> rfl

theorem effectOf_loadStoreQuirk (s : State) (i : Instr) : (effectOf s i).loadStoreQuirk = s.loadStoreQuirk := by
  cases i <;> rfl

/-- Settles O45: neither a failure's entry nor an effect writes any of the four. -/
theorem noInstructionWritesHostState : Obligations.NoInstructionWritesHostState := by
  intro i s t h
  obtain ⟨cause, -, rfl⟩ | ⟨-, rfl⟩ := exec_eq_next h
  · exact ⟨rfl, rfl, rfl, rfl⟩
  · exact ⟨effectOf_key s i, effectOf_shiftQuirk s i, effectOf_loadStoreQuirk s i, effectOf_cfg i s⟩

theorem effectOf_i (s : State) (i : Instr) :
    (effectOf s i).i = s.i ∨ (∃ nnn, i = .ldI nnn) ∨ (∃ x, i = .addI x ∨ i = .ldF x) ∨
      (s.loadStoreQuirk = false ∧ ∃ x, i = .ldMemVx x ∨ i = .ldVxMem x) := by
  cases i with
  | ldI nnn => exact .inr (.inl ⟨nnn, rfl⟩)
  | addI x => exact .inr (.inr (.inl ⟨x, .inl rfl⟩))
  | ldF x => exact .inr (.inr (.inl ⟨x, .inr rfl⟩))
  | ldMemVx x | ldVxMem x =>
    cases hquirk : s.loadStoreQuirk
    · exact .inr (.inr (.inr ⟨rfl, x, by simp⟩))
    · exact .inl (if_pos hquirk)
  | _ => exact .inl rfl

theorem effectOf_sp (s : State) (i : Instr) : (effectOf s i).sp = s.sp ∨ (∃ nnn, i = .call nnn) ∨ i = .ret := by
  cases i with
  | call nnn => exact .inr (.inl ⟨nnn, rfl⟩)
  | ret => exact .inr (.inr rfl)
  | _ => exact .inl rfl

theorem effectOf_dt (s : State) (i : Instr) : (effectOf s i).dt = s.dt ∨ ∃ x, i = .ldDtVx x := by
  cases i with
  | ldDtVx x => exact .inr ⟨x, rfl⟩
  | _ => exact .inl rfl

theorem effectOf_st (s : State) (i : Instr) : (effectOf s i).st = s.st ∨ ∃ x, i = .ldStVx x := by
  cases i with
  | ldStVx x => exact .inr ⟨x, rfl⟩
  | _ => exact .inl rfl

theorem effectOf_fbPrev (s : State) (i : Instr) :
    (effectOf s i).fbPrev = s.fbPrev ∨ i = .cls ∨ ∃ x y n, i = .drw x y n := by
  cases i with
  | cls => exact .inr (.inl rfl)
  | drw x y n => exact .inr (.inr ⟨x, y, n, rfl⟩)
  | _ => exact .inl rfl

/-- Settles O46: a failure writes none of the five, and an effect writes each where the lemma of that register says. -/
theorem specialRegistersHaveTheirWriters : Obligations.SpecialRegistersHaveTheirWriters := by
  intro i s t h
  obtain ⟨cause, -, rfl⟩ | ⟨-, rfl⟩ := exec_eq_next h
  · exact ⟨.inl rfl, .inl rfl, .inl rfl, .inl rfl, .inl rfl⟩
  · exact ⟨effectOf_i s i, effectOf_sp s i, effectOf_dt s i, effectOf_st s i, effectOf_fbPrev s i⟩

theorem flagByte_eq_zero_or_one (b : Bool) : flagByte b = 0 ∨ flagByte b = 1 := by cases b <;> decide

theorem effectOf_flag {i : Instr} (s : State) (h : writesFlag i = true) : ∃ b, (effectOf s i).reg 15 = flagByte b := by
  cases i with
  | addReg | sub | subn | shr | shl => exact ⟨_, State.reg_setResultFlag_vf _ _ _ _⟩
  | drw => exact ⟨_, State.reg_setFlag_vf _ _⟩
  | _ => cases h

/-- Fx0A writes no register but `V[x]` (44_keypad_and_timers R162, R163). -/
theorem waitRegs_get_other (s : State) {x r : Reg} (h : r ≠ x) : (waitRegs s x).get r = s.reg r := by
  rw [waitRegs]
  cases s.cfg.keyWaitMode with
  | designatedVx => rfl
  | anyKeyLowest =>
    cases leastKey s with
    | none => rfl
    | some k => exact s.reg_setReg_other x r _ h

theorem effectOf_vf {i : Instr} (s : State) (hflag : writesFlag i = false) (hreg : writesVfAsRegister i = false) :
    (effectOf s i).reg 15 = s.reg 15 := by
  cases i with
  | addReg | sub | subn | shr | shl | drw => cases hflag
  | ldByte x | addByte x | ldVxDt x | ldReg x | orReg x | andReg x | xorReg x | rnd x =>
    exact State.reg_setReg_other _ x 15 _ (Ne.symm (beq_eq_false_iff_ne.mp hreg))
  | ldVxK x => exact waitRegs_get_other s (Ne.symm (beq_eq_false_iff_ne.mp hreg))
  | ldVxMem x =>
    have hx : x ≠ 15 := beq_eq_false_iff_ne.mp hreg
    have hval : ¬ 15 < x.val + 1 := by
      have := Fin.val_ne_of_ne hx
      omega
    exact (loadedRegs_get _ _ x 15).trans (if_neg hval)
  | _ => rfl

/-- Settles O47: a success is the effect, whose VF `effectOf_flag` and `effectOf_vf` give. -/
theorem flagIsWrittenByFlagInstructionsOnly : Obligations.FlagIsWrittenByFlagInstructionsOnly := by
  intro i s t hf h ht
  obtain ⟨-, rfl⟩ := next_eq_effectOf h ht
  refine ⟨fun hflag => ?_, effectOf_vf s⟩
  obtain ⟨b, hb⟩ := effectOf_flag s hflag
  exact hb ▸ flagByte_eq_zero_or_one b

/-! ### Components that influence nothing, or their own family alone -/

/-- A change of state commutes with an instruction that neither checks nor uses what it changes. -/
theorem exec_commutes {i : Instr} {s s' t : State} (change : State → State) (h : exec i s = .next t)
    (hfailure : failureOf s' i = failureOf s i) (hfailed : ∀ cause, failedWith cause s' = change (failedWith cause s))
    (heffect : effectOf s' i = change (effectOf s i)) : exec i s' = .next (change t) := by
  obtain ⟨cause, hcause, rfl⟩ | ⟨hnone, rfl⟩ := exec_eq_next h
  · rw [exec_failure (hfailure.trans hcause), hfailed]
  · rw [exec_effect (hfailure.trans hnone), heffect]

theorem failureOf_withFbPrev (s : State) (f : Frame) (i : Instr) :
    failureOf { s with fbPrev := f } i = failureOf s i := by
  cases i <;> rfl

/-- A snapshot forgets the frame before it; every other instruction keeps `FBprev`. -/
theorem effectOf_withFbPrev (s : State) (f : Frame) (i : Instr) :
    ∃ g, effectOf { s with fbPrev := f } i = { effectOf s i with fbPrev := g } := by
  cases i with
  | cls | drw => exact ⟨s.authFrame, rfl⟩
  | _ => exact ⟨f, rfl⟩

/-- Settles O48: no fetch and no check sees `FBprev`, so both machines fail alike or have the same effect up to it. -/
theorem previousFrameIsNeverRead : Obligations.PreviousFrameIsNeverRead := by
  intro s t f hstep
  obtain ⟨hc, hf, ⟨cause, hfetch, rfl⟩ | ⟨i, hfetch, hexec⟩⟩ := step_next s t hstep
  · exact ⟨f, step_of_fetch_error { s with fbPrev := f } cause hc hf hfetch⟩
  · rw [step_of_fetch { s with fbPrev := f } i hc hf hfetch]
    obtain ⟨cause, hcause, rfl⟩ | ⟨hnone, rfl⟩ := exec_eq_next hexec
    · exact ⟨f, exec_failure ((failureOf_withFbPrev s f i).trans hcause)⟩
    · obtain ⟨g, hg⟩ := effectOf_withFbPrev s f i
      exact ⟨g, hg ▸ exec_effect ((failureOf_withFbPrev s f i).trans hnone)⟩

theorem failureOf_withShiftQuirk (s : State) (q : Bool) (i : Instr) :
    failureOf { s with shiftQuirk := q } i = failureOf s i := by
  cases i <;> rfl

theorem failureOf_withLoadStoreQuirk (s : State) (q : Bool) (i : Instr) :
    failureOf { s with loadStoreQuirk := q } i = failureOf s i := by
  cases i <;> rfl

theorem effectOf_withShiftQuirk (s : State) (q : Bool) {i : Instr} (h : ∀ x y, i ≠ .shr x y ∧ i ≠ .shl x y) :
    effectOf { s with shiftQuirk := q } i = { effectOf s i with shiftQuirk := q } := by
  cases i with
  | shr x y => exact absurd rfl (h x y).1
  | shl x y => exact absurd rfl (h x y).2
  | _ => rfl

theorem effectOf_withLoadStoreQuirk (s : State) (q : Bool) {i : Instr} (h : ∀ x, i ≠ .ldMemVx x ∧ i ≠ .ldVxMem x) :
    effectOf { s with loadStoreQuirk := q } i = { effectOf s i with loadStoreQuirk := q } := by
  cases i with
  | ldMemVx x => exact absurd rfl (h x).1
  | ldVxMem x => exact absurd rfl (h x).2
  | _ => rfl

/-- Settles O49: outside its two instructions each flag commutes with the check and the effect (`exec_commutes`). -/
theorem quirksSelectTheirFamilies : Obligations.QuirksSelectTheirFamilies := fun i s _ q h =>
  ⟨fun hi => exec_commutes ({ · with shiftQuirk := q }) h (failureOf_withShiftQuirk s q i) (fun _ => rfl)
      (effectOf_withShiftQuirk s q hi),
    fun hi => exec_commutes ({ · with loadStoreQuirk := q }) h (failureOf_withLoadStoreQuirk s q i) (fun _ => rfl)
      (effectOf_withLoadStoreQuirk s q hi)⟩

end Sys2Proof.Machine
end

section
/-!
PROOFS. The invariant (10_state R14; 20_memory R40): it holds after RESET, and every effect, every step
and every host operation keeps it.
-/

namespace Sys2Proof.Machine

open Sys2Proof.Claims

/-! ### After RESET -/

theorem resetOf_inv (c : Config) (draws : Nat) (hc : c.Wf) : (State.resetOf c draws).Inv := by
  refine ⟨hc, Memory.nil_wf c, ?_⟩
  have hsp : (State.resetOf c draws).sp.toNat = c.stackBase := resetSP_toNat c hc
  obtain ⟨-, -, ⟨-, hlimit, -⟩, ⟨-, heven⟩, -⟩ := hc
  exact ⟨hsp ▸ heven, hsp ▸ hlimit.le, hsp.le⟩

/-- Settles O50: memory is empty and `SP` is `STACK_BASE`. -/
theorem resetMeetsInvariant : Obligations.ResetMeetsInvariant :=
  ⟨resetOf_inv standardConfig 0 standardConfig_wf, resetOf_inv⟩

/-! ### Every effect -/

/-- The invariant sees the configuration, memory and `SP` alone. -/
theorem State.Inv.of_same {s t : State} (h : s.Inv) (hc : t.cfg = s.cfg) (hm : t.mem = s.mem) (hsp : t.sp = s.sp) :
    t.Inv := by
  rw [State.Inv, State.SpInBounds, hc, hm, hsp]
  exact h

theorem State.Inv.failedWith {s : State} (h : s.Inv) (cause : Fault) : (failedWith cause s).Inv := h

/-- A store inside memory keeps the invariant. -/
theorem State.Inv.writeBytes {s : State} (h : s.Inv) {a : Nat} {bs : List Byte} (hin : a + bs.length ≤ s.cfg.memSize) :
    (s.writeBytes a bs).Inv := by
  obtain ⟨hc, hm, hsp⟩ := h
  exact ⟨hc, s.writeBytes_wf a bs hm hin, hsp⟩

theorem State.Inv.writeFrame {s : State} (h : s.Inv) {base : Nat} (fr : Frame) (hin : base + 256 ≤ s.cfg.memSize) :
    (s.writeFrame base fr).Inv :=
  h.writeBytes (by simpa using hin)

theorem State.Inv.authFrame_inside {s : State} (h : s.Inv) : s.cfg.fbAuthBase + 256 ≤ s.cfg.memSize := by
  obtain ⟨⟨-, hauth, -⟩, -⟩ := frames_of_wf s.cfg h.1
  exact hauth

theorem State.Inv.dispFrame_inside {s : State} (h : s.Inv) : s.cfg.fbDispBase + 256 ≤ s.cfg.memSize := by
  obtain ⟨⟨-, -, -, hdisp⟩, -⟩ := frames_of_wf s.cfg h.1
  exact hdisp

theorem State.Inv.cls {s : State} (h : s.Inv) : (effectOf s .cls).Inv := by
  have hauth : (s.snapshot.writeFrame s.cfg.fbAuthBase blankFrame).Inv :=
    State.Inv.writeFrame (s := s.snapshot) h blankFrame h.authFrame_inside
  refine hauth.writeBytes ?_
  have hdisp : s.cfg.fbDispBase + 256 ≤ s.cfg.memSize := h.dispFrame_inside
  rw [clearedDisplay_length]
  show _ ≤ s.cfg.memSize
  split <;> omega

theorem State.Inv.drw {s : State} (h : s.Inv) (x y : Reg) (n : Nibble) : (effectOf s (.drw x y n)).Inv := by
  have hauth : (s.snapshot.writeFrame s.cfg.fbAuthBase (drawResult s x y n).1).Inv :=
    State.Inv.writeFrame (s := s.snapshot) h _ h.authFrame_inside
  exact hauth.writeFrame _ h.dispFrame_inside

/-- A push where there is room stores inside memory and leaves `SP` even and in bounds. -/
theorem State.Inv.push {s : State} (h : s.Inv) (w : Word) (hfull : s.sp.toNat ≠ s.cfg.stackLimit) : (s.push w).Inv := by
  have hroom := h.room_of_not_full hfull
  obtain ⟨hc, hm, heven, hge, hle⟩ := h
  obtain ⟨-, -, ⟨-, -, hbase⟩, -⟩ := id hc
  have hsp : (s.push w).sp.toNat = s.sp.toNat - 2 := sub_two_toNat s.sp (by omega)
  have hstore : (s.sp - 2).toNat + (wordBytes w).length ≤ s.cfg.memSize := by
    rw [sub_two_toNat s.sp (by omega), wordBytes_length]
    omega
  refine ⟨hc, Memory.writeBytes_wf s.cfg s.mem _ _ hm hstore, ?_⟩
  rw [State.SpInBounds, hsp, State.push_cfg]
  omega

theorem State.Inv.pop {s : State} (h : s.Inv) (hempty : s.sp.toNat ≠ s.cfg.stackBase) : s.pop.Inv := by
  have hentry := h.entry_of_not_empty hempty
  obtain ⟨hc, hm, heven, hge, hle⟩ := h
  have hsp : s.pop.sp.toNat = s.sp.toNat + 2 := sp_add_two_toNat s hc hentry
  refine ⟨hc, hm, ?_⟩
  rw [State.SpInBounds, hsp, State.pop_cfg]
  omega

theorem State.Inv.not_full {s : State} (h : s.Inv) (hroom : pushFault s = none) : s.sp.toNat ≠ s.cfg.stackLimit := by
  intro hfull
  have := (pushFault_eq_some_iff h _).mpr ⟨hfull, rfl⟩
  simp [hroom] at this

theorem State.Inv.not_empty {s : State} (h : s.Inv) (hentry : popFault s = none) : s.sp.toNat ≠ s.cfg.stackBase := by
  intro hempty
  have := (popFault_eq_some_iff h _).mpr ⟨hempty, rfl⟩
  simp [hentry] at this

/-- An instruction that nothing stops keeps the invariant. -/
theorem State.Inv.effectOf {s : State} (h : s.Inv) {i : Instr} (hnone : failureOf s i = none) : (effectOf s i).Inv := by
  cases i with
  | cls => exact h.cls
  | drw x y n => exact h.drw x y n
  | call nnn => exact State.Inv.of_same (h.push (s.pc + 2) (h.not_full hnone)) rfl rfl rfl
  | ret => exact State.Inv.of_same (h.pop (h.not_empty hnone)) rfl rfl rfl
  | ldB x =>
    have hin := (dataFault_eq_none s s.i.toNat 3).mp hnone
    exact State.Inv.of_same (h.writeBytes (bs := bcdDigits (s.reg x)) hin) rfl rfl rfl
  | ldMemVx x =>
    have hin := (dataFault_eq_none s s.i.toNat (x.val + 1)).mp hnone
    exact State.Inv.of_same (h.writeBytes (bs := regBytes s x) (by rwa [regBytes_length])) rfl rfl rfl
  | _ => exact h.of_same rfl rfl rfl

theorem State.Inv.exec {s t : State} (h : s.Inv) {i : Instr} (hexec : exec i s = .next t) : t.Inv := by
  obtain ⟨cause, -, rfl⟩ | ⟨hnone, rfl⟩ := exec_eq_next hexec
  · exact h.failedWith cause
  · exact h.effectOf hnone

/-! ### Every step -/

/-- Settles O51: a step is a failure's entry or an instruction, and each keeps the invariant. -/
theorem stepKeepsInvariant : Obligations.StepKeepsInvariant := by
  intro s t hinv hstep
  obtain ⟨-, -, ⟨cause, -, rfl⟩ | ⟨i, -, hexec⟩⟩ := step_next s t hstep
  · exact hinv.failedWith cause
  · exact hinv.exec hexec

/-! ### Every host operation -/

theorem State.Inv.stepPort {s : State} (h : s.Inv) : (stepPort s).1.Inv := by
  cases hstep : step s with
  | next t =>
    have ht : t.Inv := stepKeepsInvariant s t h hstep
    cases hf : t.fault with
    | none => exact stepPort_success hstep hf ▸ ht
    | some cause => exact stepPort_failed hstep hf ▸ ht
  | fault cause => simpa only [Machine.stepPort, hstep] using h
  | refused r => exact absurd hstep (step_ne_refused h.1 r)

/-- An accepted program ends below `STACK_LIMIT`, and LOAD puts `SP` at `STACK_BASE` (70_reset_and_hazards R204). -/
theorem State.Inv.loaded {s : State} (h : s.Inv) (p : Program) (hfits : p.bytes.length ≤ s.cfg.progMax) :
    (loaded p s).Inv := by
  obtain ⟨hc, hm, -⟩ := h
  have hsp : (Machine.loaded p s).sp.toNat = s.cfg.stackBase := resetSP_toNat s.cfg hc
  obtain ⟨-, -, ⟨hprog, hlimit, hbase⟩, ⟨-, heven⟩, -⟩ := id hc
  have hstore : s.cfg.progBase + p.bytes.length ≤ s.cfg.memSize := by
    rw [Config.progMax] at hfits
    omega
  exact ⟨hc, s.writeBytes_wf s.cfg.progBase p.bytes hm hstore, hsp ▸ heven, hsp ▸ hlimit.le, hsp.le⟩

theorem State.Inv.setKeyPort {s : State} (h : s.Inv) (index : Nat) (pressed : Bool) :
    (setKeyPort index pressed s).1.Inv := by
  unfold Machine.setKeyPort
  split <;> exact h

theorem State.Inv.loadPort {s : State} (h : s.Inv) (found : Option Program) : (loadPort found s).1.Inv := by
  cases found with
  | none => exact h
  | some p =>
    rcases Nat.lt_or_ge s.cfg.progMax p.bytes.length with hlarge | hfits
    · rw [loadPort_tooLarge p s hlarge]
      exact h
    · rw [loadPort_fits p s hfits]
      exact h.loaded p hfits

theorem State.Inv.applyOp {s : State} (h : s.Inv) (op : HostOp) : (applyOp op s).1.Inv := by
  cases op with
  | reset => exact resetOf_inv s.cfg s.draws h.1
  | load found => exact h.loadPort found
  | step => exact h.stepPort
  | setKey index pressed => exact h.setKeyPort index pressed
  | tick | memView | dispView | stView => exact h

/-- Settles O52, by induction on the list of operations. -/
theorem hostOpsKeepInvariant : Obligations.HostOpsKeepInvariant := by
  intro ops
  induction ops with
  | nil => exact fun s h => h
  | cons op ops ih => exact fun s h => ih _ (h.applyOp op)

end Sys2Proof.Machine
end

section
/-!
PROOFS. Instructions that write registers and `PC` alone: the jumps and skips (40_step R95 to R101), the loads, logic and
subtractions (41_alu), the index register (42_index_and_memory), the keypad and the timers (44_keypad_and_timers). Each statement is
read off `effectOf`.
-/

namespace Sys2Proof.Machine

open Sys2Proof.Claims

/-! ### Jumps and skips -/

theorem State.jump_onlyPc (s : State) (w : Word) : OnlyPc s (s.jump w) := ⟨rfl, fun _ => rfl⟩

/-- Settles O13: both jumps succeed and write `PC` alone. -/
theorem jumpsReachTheirTargets : Obligations.JumpsReachTheirTargets := fun nnn s =>
  ⟨⟨_, exec_effect rfl, zext16_toNat nnn, s.jump_onlyPc _⟩,
    ⟨_, exec_effect rfl, jpV0_target_toNat nnn (s.reg 0), s.jump_onlyPc _⟩⟩

/-- Settles O14: each skip succeeds and is a jump by its condition (`State.skipped`). -/
theorem conditionalSkips : Obligations.ConditionalSkips := fun _ _ _ s =>
  ⟨⟨_, exec_effect rfl, s.jump_onlyPc _, rfl⟩, ⟨_, exec_effect rfl, s.jump_onlyPc _, rfl⟩,
    ⟨_, exec_effect rfl, s.jump_onlyPc _, rfl⟩, ⟨_, exec_effect rfl, s.jump_onlyPc _, rfl⟩⟩

/-- Settles O37: a value above 15 fails the check, and a key's number passes it and names that key. -/
theorem keypadSkips : Obligations.KeypadSkips := by
  intro x s
  refine ⟨fun hout => ?above, fun k hk => ?key⟩
  case above =>
    have hcheck := (operandFault_eq_some .key (s.reg x) _).mpr ⟨hout, rfl⟩
    exact ⟨exec_failure hcheck, exec_failure hcheck⟩
  case key =>
    have hcheck := (operandFault_eq_none .key (s.reg x)).mpr (hk ▸ Nat.le_of_lt_succ k.isLt)
    have hkey := keyOf_eq_of_val_eq (s.reg x) k hk
    refine ⟨⟨_, exec_effect hcheck, s.jump_onlyPc _, ?_⟩, ⟨_, exec_effect hcheck, s.jump_onlyPc _, ?_⟩⟩
    · rw [← hkey]
      rfl
    · rw [← hkey, ← ite_not]
      rfl

/-! ### Writing one register -/

/-- The frame of an instruction that writes one register (10_state R10). -/
theorem State.setReg_advance_frame (s : State) (x : Reg) (b : Byte) : OnlyRegsAndPc [x] s (s.setReg x b).advance :=
  ⟨rfl, fun r hr => s.reg_setReg_other x r b (by simpa using hr), fun _ => rfl⟩

/-- What an instruction that answers one written register leaves. -/
theorem next_of_setReg {i : Instr} {s : State} {x : Reg} {b : Byte} {p : Byte → Prop}
    (hexec : exec i s = .next (s.setReg x b).advance) (hvalue : p b) :
    ∃ t, exec i s = .next t ∧ p (t.reg x) ∧ OnlyRegsAndPc [x] s t ∧ t.pc = s.pc + 2 :=
  ⟨_, hexec, (s.reg_setReg_same x b).symm ▸ hvalue, s.setReg_advance_frame x b, rfl⟩

/-- Settles O18: each load is one register written. -/
theorem registerLoads : Obligations.RegisterLoads := fun _ y kk s =>
  ⟨next_of_setReg (p := (· = kk)) (exec_effect rfl) rfl, next_of_setReg (p := (· = s.reg y)) (exec_effect rfl) rfl,
    next_of_setReg (p := (· = s.dt)) (exec_effect rfl) rfl⟩

/-- Settles O19: the register written takes the sum, which `BitVec.toNat_add` reduces modulo 256. -/
theorem addImmediateWraps : Obligations.AddImmediateWraps := fun x kk s =>
  next_of_setReg (p := fun b => b.toNat = ((s.reg x).toNat + kk.toNat) % 256) (exec_effect rfl) (BitVec.toNat_add _ _)

/-- Settles O20: each bit of the register written, by `BitVec.getLsbD_or`, `getLsbD_and` and `getLsbD_xor`. -/
theorem logicActsBitwise : Obligations.LogicActsBitwise := fun x y s =>
  ⟨next_of_setReg (p := fun b => ∀ k, b.getLsbD k = ((s.reg x).getLsbD k || (s.reg y).getLsbD k)) (exec_effect rfl)
      (fun _ => BitVec.getLsbD_or),
    next_of_setReg (p := fun b => ∀ k, b.getLsbD k = ((s.reg x).getLsbD k && (s.reg y).getLsbD k)) (exec_effect rfl)
      (fun _ => BitVec.getLsbD_and),
    next_of_setReg (p := fun b => ∀ k, b.getLsbD k = ((s.reg x).getLsbD k ^^ (s.reg y).getLsbD k)) (exec_effect rfl)
      (fun _ => BitVec.getLsbD_xor)⟩

/-- Settles O25: `Config.randomByte` enters by its bits alone. -/
theorem randomByteIsMasked : Obligations.RandomByteIsMasked := by
  intro x kk s
  refine ⟨_, exec_effect rfl, fun k => ?_, rfl, rfl, fun r hr => ?_, fun _ => rfl, rfl⟩
  · exact (congrArg (BitVec.getLsbD · k) (s.drawn.reg_setReg_same x _)).trans BitVec.getLsbD_and
  · exact s.drawn.reg_setReg_other x r _ (by simpa using hr)

/-! ### Subtractions, and one register as both operands -/

theorem sub_toNat_mod (a b : Byte) : (a - b).toNat = (a.toNat + 256 - b.toNat) % 256 := by
  rw [BitVec.toNat_sub]
  omega

theorem flagByte_notBorrow_toNat (a b : Byte) :
    (flagByte (notBorrow a b)).toNat = if b.toNat ≤ a.toNat then 1 else 0 := by
  simp [flagByte_toNat, notBorrow]

/-- Settles O22: the difference is `sub_toNat_mod` and the flag `flagByte_notBorrow_toNat`, the operands of 8xy7 exchanged. -/
theorem subtractionsSetNotBorrow : Obligations.SubtractionsSetNotBorrow := fun _ _ _ =>
  ⟨next_of_setResultFlag (exec_effect rfl) (sub_toNat_mod _ _) (flagByte_notBorrow_toNat _ _),
    next_of_setResultFlag (exec_effect rfl) (sub_toNat_mod _ _) (flagByte_notBorrow_toNat _ _)⟩

theorem shiftSource_same (s : State) (x : Reg) : shiftSource s x x = s.reg x := ite_self _

/-- The sum of a byte with itself overflows iff its top bit is set (41_alu R124). -/
theorem flagByte_carry_same_toNat (a : Byte) : (flagByte (carry a a)).toNat = if 128 ≤ a.toNat then 1 else 0 := by
  rw [flagByte_carry_toNat]
  exact if_congr (by omega) rfl rfl

/-- Where the source of a shift is one register, `SHIFT_QUIRK` selects nothing (41_alu R124). -/
theorem effectOf_shr_same (s : State) (x : Reg) (q : Bool) :
    effectOf { s with shiftQuirk := q } (.shr x x) = { effectOf s (.shr x x) with shiftQuirk := q } := by
  simp only [effectOf, shiftSource_same]
  rfl

theorem effectOf_shl_same (s : State) (x : Reg) (q : Bool) :
    effectOf { s with shiftQuirk := q } (.shl x x) = { effectOf s (.shl x x) with shiftQuirk := q } := by
  simp only [effectOf, shiftSource_same]
  rfl

/-- A result that is what the register held changes nothing but `PC`. -/
theorem exec_eq_advance {i : Instr} {s : State} {x : Reg} {b : Byte} (hexec : exec i s = .next (s.setReg x b).advance)
    (hb : b = s.reg x) : exec i s = .next s.advance := by
  rw [hexec, hb, s.setReg_self x]

/-- A byte less itself is 0, and there is no borrow. -/
theorem next_of_sub_same {i : Instr} {s : State} {x : Reg} {a : Byte}
    (hexec : exec i s = .next (s.setResultFlag x (a - a) (notBorrow a a)).advance) :
    ∃ t, exec i s = .next t ∧ (x ≠ 15 → t.reg x = 0) ∧ t.reg 15 = 1 := by
  refine ⟨_, hexec, fun hx => ?_, ?_⟩
  · exact (s.reg_setResultFlag_dest x _ _ hx).trans (BitVec.sub_self a)
  · rw [State.advance_reg, State.reg_setResultFlag_vf, notBorrow, decide_eq_true le_rfl]
    rfl

/-- Settles O24: the operators on a byte and itself, and a shift source that no longer depends on the quirk. -/
theorem sameRegisterTwice : Obligations.SameRegisterTwice := by
  intro x s
  refine ⟨exec_eq_advance (exec_effect rfl) rfl, exec_eq_advance (exec_effect rfl) BitVec.or_self,
    exec_eq_advance (exec_effect rfl) BitVec.and_self, ?xor, ?add, next_of_sub_same (exec_effect rfl),
    next_of_sub_same (exec_effect rfl), ?shr, ?shl⟩
  case xor => exact ⟨_, exec_effect rfl, (s.reg_setReg_same x _).trans BitVec.xor_self⟩
  case add =>
    obtain ⟨t, hexec, hsum, hcarry, -⟩ :=
      next_of_setResultFlag (exec_addReg x x s) (BitVec.toNat_add _ _) (flagByte_carry_same_toNat _)
    exact ⟨t, hexec, fun hx => by rw [hsum hx, Nat.two_mul], hcarry⟩
  case shr => exact fun q => ⟨_, exec_effect rfl, (exec_effect rfl).trans (congrArg _ (effectOf_shr_same s x q))⟩
  case shl => exact fun q => ⟨_, exec_effect rfl, (exec_effect rfl).trans (congrArg _ (effectOf_shl_same s x q))⟩

/-! ### The index register and the timers -/

/-- Settles O26: the immediate and the register are zero-extended, and the sum is reduced modulo 65536. -/
theorem indexLoadsAndAdds : Obligations.IndexLoadsAndAdds := by
  intro x nnn s
  refine ⟨⟨_, exec_effect rfl, zext16_toNat nnn, rfl, fun _ => rfl, rfl⟩,
    ⟨_, exec_effect rfl, ?_, rfl, fun _ => rfl, rfl⟩⟩
  show (s.i + zextByte (s.reg x)).toNat = _
  rw [BitVec.toNat_add, zextByte_toNat]

/-- The font lies below `PROG_BASE`, so a glyph's address fits in `I` (42_index_and_memory R132). -/
theorem glyphAddr_toNat {s : State} (hc : s.cfg.Wf) {d : Byte} (hd : d.toNat ≤ 15) :
    (glyphAddr s d).toNat = s.cfg.fontBase + 5 * d.toNat := by
  obtain ⟨-, hfont, ⟨hprog, hlimit, -⟩, -, -, -, ⟨hbase, -⟩, -, ⟨hstride, hcount⟩, -⟩ := hc
  rw [Config.fontFits, hstride, hcount] at hfont
  rw [glyphAddr, hstride, BitVec.toNat_ofNat, Nat.mod_eq_of_lt (by omega)]

/-- Settles O27: above 15 the check fails, and a digit passes it and has its glyph at `glyphAddr_toNat`. -/
theorem fontAddressOfDigit : Obligations.FontAddressOfDigit := by
  refine fun x s hc => ⟨fun hout => ?above, fun hin => ?digit⟩
  case above => exact exec_failure ((operandFault_eq_some .font (s.reg x) _).mpr ⟨hout, rfl⟩)
  case digit =>
    have hcheck := (operandFault_eq_none .font (s.reg x)).mpr hin
    exact ⟨_, exec_effect hcheck, glyphAddr_toNat hc hin, rfl, fun _ => rfl, rfl⟩

/-- Settles O40: each effect writes one timer and `PC`. -/
theorem timerLoads : Obligations.TimerLoads := fun _ _ =>
  ⟨⟨_, exec_effect rfl, rfl, rfl, fun _ => rfl, rfl⟩, ⟨_, exec_effect rfl, rfl, rfl, fun _ => rfl, rfl⟩⟩

/-! ### Fx0A in `AnyKeyLowest` -/

theorem leastKey_eq_of_least {s : State} {k : Reg} (hdown : s.keyDown k = true)
    (hleast : ∀ j : Reg, j < k → s.keyDown j = false) : leastKey s = some k := by
  cases hkey : leastKey s with
  | none => simp [(leastKey_eq_none s).mp hkey k] at hdown
  | some j =>
    obtain ⟨hj, hbelow⟩ := leastKey_eq_some s j hkey
    rcases lt_trichotomy j k with hlt | rfl | hgt
    · simp [hleast j hlt] at hj
    · rfl
    · simp [hbelow k hgt] at hdown

theorem exec_ldVxK_anyKeyLowest (x : Reg) {s : State} (hmode : s.cfg.keyWaitMode = .anyKeyLowest) :
    exec (.ldVxK x) s = waitAnyKey x s := by
  rw [exec, execLdVxK, hmode]

theorem exec_ldVxK_noKey (x : Reg) {s : State} (hmode : s.cfg.keyWaitMode = .anyKeyLowest) (hkey : leastKey s = none) :
    exec (.ldVxK x) s = .next s := by
  rw [exec_ldVxK_anyKeyLowest x hmode, waitAnyKey, hkey]
  rfl

theorem exec_ldVxK_leastKey (x : Reg) {s : State} (hmode : s.cfg.keyWaitMode = .anyKeyLowest) {k : Reg}
    (hkey : leastKey s = some k) : exec (.ldVxK x) s = .next (s.setReg x (BitVec.ofNat 8 k.val)).advance := by
  rw [exec_ldVxK_anyKeyLowest x hmode, waitAnyKey, hkey]
  rfl

/-- Settles O38: the key `leastKey` finds is the one that is down with none below it, and its number fits in a byte. -/
theorem waitForAnyKey : Obligations.WaitForAnyKey := by
  refine fun x s hmode => ⟨fun hup => exec_ldVxK_noKey x hmode ((leastKey_eq_none s).mpr hup), fun k hdown hleast => ?_⟩
  exact next_of_setReg (p := fun b => b.toNat = k.val)
    (exec_ldVxK_leastKey x hmode (leastKey_eq_of_least hdown hleast)) (toNat_ofNat_byte k.val (by omega))

end Sys2Proof.Machine
end

section
/-!
PROOFS. Round trips through memory (42_index_and_memory R134, R135; 40_step R94, R96; 20_memory R57), assembled from the
statements on the instructions that make them; and the state after RESET (10_state R29, 70_reset_and_hazards R200).
-/

namespace Sys2Proof.Machine

open Sys2Proof.Claims

/-! ### Stores and what reads them -/

theorem fetchWord_toNat (s : State) :
    (fetchWord s).toNat = 256 * (s.readByte s.pc.toNat).toNat + (s.readByte (s.pc.toNat + 1)).toNat :=
  wordOfBytes_toNat _ _

/-- Settles O12: the two bytes a fetch at `I` reads are the first two that Fx55 stored there (`bulkStoreCopiesRegisters`). -/
theorem storeToCodeIsFetched : Obligations.StoreToCodeIsFetched := by
  intro x s hinv hx hin
  obtain ⟨t, hexec, hbytes, -⟩ := (bulkStoreCopiesRegisters x s hinv).2 hin
  refine ⟨t, hexec, ?_⟩
  have hhi : t.readByte s.i.toNat = s.reg 0 := hbytes 0 (Nat.zero_le _)
  have hlo : t.readByte (s.i.toNat + 1) = s.reg 1 := hbytes 1 hx
  rw [fetchWord_toNat, ← hhi, ← hlo]
  rfl

/-- Settles O31: with the quirk set `I` stays, so Fx65 reads the bytes Fx55 stored. -/
theorem bulkStoreThenLoad : Obligations.BulkStoreThenLoad := by
  intro x s w hinv hquirk hin
  obtain ⟨t, hstore, hbytes, -, hi, -⟩ := (bulkStoreCopiesRegisters x s hinv).2 hin
  rw [if_pos hquirk] at hi
  obtain ⟨-, -, -, hcfg⟩ := noInstructionWritesHostState _ s t hstore
  have hin' : t.i.toNat + x.val + 1 ≤ t.cfg.memSize := by rwa [hi, hcfg]
  obtain ⟨u, hload, hloaded, habove, -⟩ := (bulkLoadCopiesMemory x { t with v := w }).2 hin'
  refine ⟨t, u, hstore, hload, fun r hr => ?_, habove⟩
  have hread : u.reg r = t.readByte (t.i.toNat + r.val) := hloaded r hr
  rw [hread, hi, hbytes r hr]

/-- Settles O17: CALL leaves one entry, the two bytes of `pc0` + 2 at the new `SP`, and RET takes it. -/
theorem callThenReturn : Obligations.CallThenReturn := by
  intro nnn s hinv hfull
  obtain ⟨t, hcall, -, hsp, hhi, hlo, -⟩ := (callPushesAndJumps nnn s hinv).2 hfull
  have hroom := hinv.room_of_not_full hfull
  obtain ⟨-, -, -, hcfg⟩ := noInstructionWritesHostState _ s t hcall
  have hentry : t.sp.toNat ≠ t.cfg.stackBase := by
    obtain ⟨-, -, -, -, hle⟩ := hinv
    rw [hsp, hcfg]
    omega
  obtain ⟨u, hret, hpc, hsp', -⟩ := (returnPopsItsTarget t (hinv.exec hcall)).2 hentry
  refine ⟨t, u, hcall, hret, BitVec.eq_of_toNat_eq ?_, BitVec.eq_of_toNat_eq (by omega)⟩
  have hnext : s.sp.toNat - 2 + 1 = s.sp.toNat - 1 := by omega
  rw [hpc, hsp, hnext, hhi, hlo, Nat.div_add_mod]

/-! ### RESET -/

/-- Reset memory lists nothing (10_state R29). -/
theorem resetOf_readByte (c : Config) (draws a : Nat) : (State.resetOf c draws).readByte a = resetByte c a := rfl

theorem glyphByte_eq_font : ∀ k, k < 80 → glyphByte (k / 5) (k % 5) = (fontLow ++ fontHigh).getD k 0 := by decide

theorem resetByte_font {c : Config} (hc : c.Wf) {k : Nat} (hk : k < 80) :
    resetByte c (c.fontBase + k) = (fontLow ++ fontHigh).getD k 0 := by
  obtain ⟨-, -, -, -, -, -, -, -, ⟨hstride, hcount⟩, -⟩ := hc
  rw [resetByte, hstride, hcount, if_pos (by omega), Nat.add_sub_cancel_left, glyphByte_eq_font k hk]

theorem resetByte_outside_font {c : Config} (hc : c.Wf) {a : Nat} (ha : a < c.fontBase ∨ c.fontBase + 80 ≤ a) :
    resetByte c a = 0 := by
  obtain ⟨-, -, -, -, -, -, -, -, ⟨hstride, hcount⟩, -⟩ := hc
  rw [resetByte, hstride, hcount, if_neg (by omega)]

theorem resetOf_reg (c : Config) (draws : Nat) (r : Reg) : (State.resetOf c draws).reg r = 0 :=
  Vector.getElem_replicate r.isLt

theorem resetOf_keyDown (c : Config) (draws : Nat) (k : Reg) : (State.resetOf c draws).keyDown k = false :=
  Vector.getElem_replicate k.isLt

theorem byte_resetFbPrev {k : Nat} (hk : k < 256) : Frame.byte resetFbPrev k = 0 :=
  (Frame.byte_eq_getElem resetFbPrev k hk).trans (Vector.getElem_replicate hk)

/-- Settles O53: RESET is `State.resetOf`, whatever the state was; each component by its lemma. -/
theorem resetPortClearsEverything : Obligations.ResetPortClearsEverything := fun s hc =>
  ⟨State.resetOf s.cfg s.draws, rfl, resetOf_reg _ _, rfl, rfl, rfl, resetPC_toNat s.cfg hc, resetSP_toNat s.cfg hc,
    fun _ => resetByte_font hc, fun _ _ => resetByte_outside_font hc, fun _ => byte_resetFbPrev, resetOf_keyDown _ _,
    rfl, rfl, rfl, rfl⟩

/-- Settles O1: the components of `State.resetOf` in the standard configuration, whose font begins at 0. -/
theorem resetValues : Obligations.ResetValues :=
  ⟨resetOf_reg _ _, rfl, rfl, rfl, rfl, rfl,
    fun k hk => (congrArg State.reset.readByte (Nat.zero_add k).symm).trans (resetByte_font standardConfig_wf hk),
    fun _ ha _ => resetByte_outside_font standardConfig_wf (.inr ha),
    fun _ => byte_resetFbPrev, resetOf_keyDown _ _, rfl, rfl, rfl⟩

end Sys2Proof.Machine
end

section
/-!
PROOFS. CLS where it updates the display, and DRW (43_display R143 to R149): the bytes after both frames are stored, a frame's
pixels in memory, the pixels under a sprite, what a blit of them leaves, and the statements on one and on two draws.
-/

namespace Sys2Proof.Machine

open Sys2Proof.Claims

/-! ### Storing both frames -/

/-- The snapshot, and then both frames stored: the end of a DRW, and of a CLS that updates the display. -/
def State.writeFrames (s : State) (auth disp : Frame) : State :=
  (s.snapshot.writeFrame s.cfg.fbAuthBase auth).writeFrame s.cfg.fbDispBase disp

theorem State.writeFrames_readByte_disp {s : State} (h : s.Inv) (auth disp : Frame) {k : Nat} (hk : k < 256) :
    (s.writeFrames auth disp).readByte (s.cfg.fbDispBase + k) = Frame.byte disp k := by
  have hm := s.snapshot.writeFrame_wf s.cfg.fbAuthBase auth h.2.1 h.authFrame_inside
  exact State.readByte_writeFrame_at _ _ disp k hm hk

theorem State.writeFrames_readByte_of_not_disp {s : State} (h : s.Inv) (auth disp : Frame) {a : Nat}
    (ha : a < s.cfg.fbDispBase ∨ s.cfg.fbDispBase + 256 ≤ a) :
    (s.writeFrames auth disp).readByte a = (s.snapshot.writeFrame s.cfg.fbAuthBase auth).readByte a := by
  have hm := s.snapshot.writeFrame_wf s.cfg.fbAuthBase auth h.2.1 h.authFrame_inside
  exact State.writeFrame_sameMemoryOutside _ _ disp hm a ha

theorem State.writeFrames_readByte_auth {s : State} (h : s.Inv) (auth disp : Frame) {k : Nat} (hk : k < 256) :
    (s.writeFrames auth disp).readByte (s.cfg.fbAuthBase + k) = Frame.byte auth k := by
  obtain ⟨-, -, -, hdisjoint⟩ := frames_of_wf s.cfg h.1
  rw [s.writeFrames_readByte_of_not_disp h auth disp (by omega)]
  exact s.snapshot.readByte_writeFrame_at _ auth k h.2.1 hk

theorem State.writeFrames_readByte_outside {s : State} (h : s.Inv) (auth disp : Frame) {a : Nat}
    (hauth : a < s.cfg.fbAuthBase ∨ s.cfg.fbAuthBase + 256 ≤ a)
    (hdisp : a < s.cfg.fbDispBase ∨ s.cfg.fbDispBase + 256 ≤ a) :
    (s.writeFrames auth disp).readByte a = s.readByte a := by
  rw [s.writeFrames_readByte_of_not_disp h auth disp hdisp]
  exact s.snapshot.writeFrame_sameMemoryOutside _ auth h.2.1 a hauth

theorem State.authFrame_byte (s : State) {k : Nat} (hk : k < 256) :
    Frame.byte s.authFrame k = s.readByte (s.cfg.fbAuthBase + k) := s.frameAt_byte _ k hk

/-! ### CLS with `CLS_UPDATES_DISPLAY` -/

theorem exec_cls_of_updating {s : State} (h : s.cfg.clsUpdatesDisplay = true) :
    exec .cls s = .next (s.writeFrames blankFrame (blend s.authFrame blankFrame)).advance := by
  rw [exec_cls, clearedDisplay, if_pos h]
  rfl

theorem byte_blend_blankFrame (s : State) {k : Nat} (hk : k < 256) :
    Frame.byte (blend s.authFrame blankFrame) k = s.readByte (s.cfg.fbAuthBase + k) := by
  rw [byte_blend _ _ k hk, byte_blankFrame k hk, s.authFrame_byte hk]
  exact BitVec.or_zero

/-- Settles O33: both frames are stored, the blank one and its OR with the frame before, which is that frame. -/
theorem clearUpdatingTheDisplay : Obligations.ClearUpdatingTheDisplay := by
  intro s hinv hflag
  refine ⟨_, exec_cls_of_updating hflag, fun k hk => ⟨?auth, snapshot_fbPrev_byte s k hk, ?disp⟩,
    fun a => s.writeFrames_readByte_outside hinv _ _, rfl, rfl⟩
  case auth => exact (s.writeFrames_readByte_auth hinv _ _ hk).trans (byte_blankFrame k hk)
  case disp => exact (s.writeFrames_readByte_disp hinv _ _ hk).trans (byte_blend_blankFrame s hk)

/-! ### Pixels in memory and under a sprite -/

theorem pixel_authFrame (s : State) {c r : Nat} (hc : c < 64) (hr : r < 32) :
    Frame.pixel s.authFrame c r = true ↔ litAuth s c r := by
  rw [Frame.pixel, s.authFrame_byte (pixelByte_lt c r hc hr), litAuth, pixelByte, pixelBit, Nat.add_assoc]

theorem spriteRows_length (s : State) (n : Nibble) : (spriteRows s n).length = n.toNat := s.readBytes_length _ _

/-- The pixels DRW visits (43_display R144 line 6). -/
def drawnPixels (s : State) (x y : Reg) (n : Nibble) : List (Nat × Nat) :=
  spritePixels s.cfg.screenW s.cfg.screenH (s.reg x).toNat (s.reg y).toNat 0 (spriteRows s n)

theorem drawResult_eq_blit (s : State) (x y : Reg) (n : Nibble) :
    drawResult s x y n = blit s.authFrame false (drawnPixels s x y n) := rfl

theorem screen_of_wf {c : Config} (h : c.Wf) : c.screenW = 64 ∧ c.screenH = 32 := by
  obtain ⟨-, -, -, -, -, -, -, -, -, ⟨-, hscreen⟩, -⟩ := h
  exact hscreen

theorem mem_drawnPixels {s : State} (h : s.cfg.Wf) (x y : Reg) (n : Nibble) (c r : Nat) :
    (c, r) ∈ drawnPixels s x y n ↔ spriteOn s x y n c r := by
  obtain ⟨hw, hh⟩ := screen_of_wf h
  rw [drawnPixels, mem_spritePixels, hw, hh]
  simp only [spriteRows, State.readBytes_length, State.readBytes_getElem, Prod.mk.injEq, Nat.zero_add, spriteOn,
    exists_prop, ← exists_and_left]

theorem drawnPixels_onScreen {s : State} (h : s.cfg.Wf) {x y : Reg} {n : Nibble} {p : Nat × Nat}
    (hp : p ∈ drawnPixels s x y n) : p.1 < 64 ∧ p.2 < 32 := by
  obtain ⟨hw, hh⟩ := screen_of_wf h
  have hon := spritePixels_onScreen _ _ _ _ _ _ p (by omega) (by omega) hp
  rwa [hw, hh] at hon

theorem drawnPixels_nodup {s : State} (h : s.cfg.Wf) (x y : Reg) (n : Nibble) : (drawnPixels s x y n).Nodup := by
  obtain ⟨hw, hh⟩ := screen_of_wf h
  exact spritePixels_nodup _ _ _ _ _ _ (by omega) (by rw [spriteRows_length]; omega)

/-! ### What a draw leaves of each pixel, and its collision -/

/-- A pixel of the drawn frame is that of `FBauth`, inverted iff the sprite is on it (43_display R145). -/
theorem pixel_drawResult {s : State} (h : s.cfg.Wf) (x y : Reg) (n : Nibble) {c r : Nat} (hc : c < 64) (hr : r < 32) :
    Frame.pixel (drawResult s x y n).1 c r = true ↔ ¬ (litAuth s c r ↔ spriteOn s x y n c r) := by
  rw [drawResult_eq_blit, pixel_blit _ _ _ (fun _ => drawnPixels_onScreen h) (drawnPixels_nodup h x y n) c r hc,
    ← pixel_authFrame s hc hr, ← mem_drawnPixels h]
  cases Frame.pixel s.authFrame c r <;> simp

theorem collision_drawResult {s : State} (h : s.cfg.Wf) (x y : Reg) (n : Nibble) :
    (drawResult s x y n).2 = true ↔ ∃ c r, c < 64 ∧ r < 32 ∧ spriteOn s x y n c r ∧ litAuth s c r := by
  rw [drawResult_eq_blit, collision_blit _ _ _ (fun _ => drawnPixels_onScreen h) (drawnPixels_nodup h x y n)]
  constructor
  · rintro (hfalse | ⟨⟨c, r⟩, hmem, hlit⟩)
    · cases hfalse
    · obtain ⟨hc, hr⟩ := drawnPixels_onScreen h hmem
      exact ⟨c, r, hc, hr, (mem_drawnPixels h x y n c r).mp hmem, (pixel_authFrame s hc hr).mp hlit⟩
  · rintro ⟨c, r, hc, hr, hon, hlit⟩
    exact .inr ⟨(c, r), (mem_drawnPixels h x y n c r).mpr hon, (pixel_authFrame s hc hr).mpr hlit⟩

/-! ### DRW -/

theorem effectOf_drw (s : State) (x y : Reg) (n : Nibble) :
    effectOf s (.drw x y n) =
      ((s.writeFrames (drawResult s x y n).1 (blend s.authFrame (drawResult s x y n).1)).setFlag
        (drawResult s x y n).2).advance := rfl

theorem effectOf_drw_auth {s : State} (h : s.Inv) (x y : Reg) (n : Nibble) {k : Nat} (hk : k < 256) :
    (effectOf s (.drw x y n)).readByte (s.cfg.fbAuthBase + k) = Frame.byte (drawResult s x y n).1 k :=
  s.writeFrames_readByte_auth h _ _ hk

theorem effectOf_drw_disp {s : State} (h : s.Inv) (x y : Reg) (n : Nibble) {k : Nat} (hk : k < 256) :
    (effectOf s (.drw x y n)).readByte (s.cfg.fbDispBase + k) =
      s.readByte (s.cfg.fbAuthBase + k) ||| (effectOf s (.drw x y n)).readByte (s.cfg.fbAuthBase + k) := by
  rw [effectOf_drw_auth h x y n hk, ← s.authFrame_byte hk, ← byte_blend _ _ k hk]
  exact s.writeFrames_readByte_disp h _ _ hk

theorem effectOf_drw_vf (s : State) (x y : Reg) (n : Nibble) :
    (effectOf s (.drw x y n)).reg 15 = flagByte (drawResult s x y n).2 := State.reg_setFlag_vf _ _

theorem effectOf_drw_sameRegs (s : State) (x y : Reg) (n : Nibble) : SameRegsBut [15] s (effectOf s (.drw x y n)) :=
  fun r hr => State.reg_setFlag_other _ r _ (by simpa using hr)

theorem effectOf_drw_lit {s : State} (h : s.Inv) (x y : Reg) (n : Nibble) {c r : Nat} (hc : c < 64) (hr : r < 32) :
    litAuth (effectOf s (.drw x y n)) c r ↔ ¬ (litAuth s c r ↔ spriteOn s x y n c r) := by
  rw [← pixel_drawResult h.1 x y n hc hr, ← pixel_authFrame _ hc hr, Frame.pixel, Frame.pixel,
    State.authFrame_byte _ (pixelByte_lt c r hc hr), ← effectOf_drw_auth h x y n (pixelByte_lt c r hc hr)]
  rfl

theorem spriteFault_eq_none {s : State} {n : Nibble} (h : n = 0 ∨ s.i.toNat + n.toNat ≤ s.cfg.memSize) :
    spriteFault s n = none := by
  rw [spriteFault]
  split
  · rfl
  · exact (dataFault_eq_none s s.i.toNat n.toNat).mpr (h.resolve_left ‹_›)

/-- Settles O34: a sprite outside memory fails the check; else the effect stores the blit and the blend (`effectOf_drw_lit`,
`effectOf_drw_disp`) and VF is the collision (`collision_drawResult`). -/
theorem drawInvertsSpritePixels : Obligations.DrawInvertsSpritePixels := by
  intro x y n s hinv
  refine ⟨fun hpos hout => exec_failure ((spriteFault_eq_some_iff s n _).mpr ⟨hpos, hout, rfl⟩), fun hin => ?_⟩
  have hcollision := collision_drawResult hinv.1 x y n
  refine ⟨_, exec_effect (spriteFault_eq_none hin), fun _ _ => effectOf_drw_lit hinv x y n, fun hhit => ?hit,
    fun hmiss => ?miss, fun k => snapshot_fbPrev_byte s k, fun _ => effectOf_drw_disp hinv x y n,
    fun _ => s.writeFrames_readByte_outside hinv _ _, effectOf_drw_sameRegs s x y n, rfl, rfl⟩
  case hit =>
    rw [effectOf_drw_vf, hcollision.mpr hhit]
    rfl
  case miss =>
    rw [effectOf_drw_vf, Bool.eq_false_iff.mpr (mt hcollision.mp hmiss)]
    rfl

/-- Settles O35: a sprite of no rows has no pixels, so the blit leaves the frame and the flag as they are. -/
theorem drawOfHeightZeroSettles : Obligations.DrawOfHeightZeroSettles := by
  intro x y s hinv
  have hblit : drawResult s x y 0 = (s.authFrame, false) := rfl
  have hauth (k : Nat) (hk : k < 256) :
      (effectOf s (.drw x y 0)).readByte (s.cfg.fbAuthBase + k) = s.readByte (s.cfg.fbAuthBase + k) := by
    rw [effectOf_drw_auth hinv x y 0 hk, hblit, s.authFrame_byte hk]
  refine ⟨_, exec_effect rfl, rfl, ?_, fun k hk => ⟨hauth k hk, ?_, snapshot_fbPrev_byte s k hk⟩⟩
  · rw [effectOf_drw_vf, hblit]
    rfl
  · rw [effectOf_drw_disp hinv x y 0 hk, hauth k hk, BitVec.or_self]

/-! ### Frames by their pixels -/

/-- Bit `j` of byte `k` of a frame is pixel (`8 × (k mod 8) + 7 - j`, `k div 8`) (43_display R141). -/
theorem litAuth_of_bit (s : State) (k j : Nat) (hj : j < 8) :
    litAuth s (8 * (k % 8) + (7 - j)) (k / 8) ↔ (s.readByte (s.cfg.fbAuthBase + k)).getLsbD j = true := by
  have hbyte : s.cfg.fbAuthBase + 8 * (k / 8) + (8 * (k % 8) + (7 - j)) / 8 = s.cfg.fbAuthBase + k := by omega
  have hbit : 7 - (8 * (k % 8) + (7 - j)) % 8 = j := by omega
  rw [litAuth, hbyte, hbit]

/-- Authoritative frames at one place with the same pixels have the same bytes. -/
theorem readByte_auth_of_lit {s t : State} (hcfg : t.cfg = s.cfg)
    (hlit : ∀ c r, c < 64 → r < 32 → (litAuth t c r ↔ litAuth s c r)) {k : Nat} (hk : k < 256) :
    t.readByte (s.cfg.fbAuthBase + k) = s.readByte (s.cfg.fbAuthBase + k) := by
  refine BitVec.eq_of_getLsbD_eq fun j hj => ?_
  have hpixel := hlit (8 * (k % 8) + (7 - j)) (k / 8) (by omega) (by omega)
  rw [litAuth_of_bit t k j hj, litAuth_of_bit s k j hj, hcfg] at hpixel
  exact Bool.eq_iff_iff.mpr hpixel

theorem not_litAuth_of_empty {s : State} (hempty : ∀ k, k < 256 → s.readByte (s.cfg.fbAuthBase + k) = 0) {c r : Nat}
    (hc : c < 64) (hr : r < 32) : ¬ litAuth s c r := by
  rw [← pixel_authFrame s hc hr, Frame.pixel, s.authFrame_byte (pixelByte_lt c r hc hr),
    hempty _ (pixelByte_lt c r hc hr)]
  simp

/-- A sprite is on some pixel of the screen iff it has a set bit. -/
theorem exists_spriteOn_iff (s : State) (x y : Reg) (n : Nibble) :
    (∃ c r, c < 64 ∧ r < 32 ∧ spriteOn s x y n c r) ↔ ∃ k, k < n.toNat ∧ s.readByte (s.i.toNat + k) ≠ 0 := by
  constructor
  · rintro ⟨c, r, -, -, k, b, hk, -, hset, -⟩
    exact ⟨k, hk, fun hzero => by simp [hzero] at hset⟩
  · rintro ⟨k, hk, hpos⟩
    obtain ⟨j, hj, hset⟩ : ∃ j, j < 8 ∧ (s.readByte (s.i.toNat + k)).getLsbD j = true := by
      by_contra hnone
      push Not at hnone
      exact hpos (BitVec.eq_of_getLsbD_eq fun j hj => by simpa using hnone j hj)
    have hbit : 7 - (7 - j) = j := by omega
    have hon : spriteOn s x y n _ _ := ⟨k, 7 - j, hk, by omega, hbit.symm ▸ hset, rfl, rfl⟩
    exact ⟨_, _, Nat.mod_lt _ (by decide), Nat.mod_lt _ (by decide), hon⟩

/-! ### Two draws -/

/-- With `I`, the origin registers and the sprite's bytes as they were, the sprite falls on the same pixels again. -/
theorem spriteOn_of_same {s t : State} {x y : Reg} {n : Nibble} (hi : t.i = s.i) (hx : t.reg x = s.reg x)
    (hy : t.reg y = s.reg y) (hsprite : ∀ k, k < n.toNat → t.readByte (s.i.toNat + k) = s.readByte (s.i.toNat + k))
    (c r : Nat) : spriteOn t x y n c r ↔ spriteOn s x y n c r := by
  rw [spriteOn, spriteOn, hi, hx, hy]
  refine exists_congr fun k => exists_congr fun b => and_congr_right fun hk => ?_
  rw [hsprite k hk]

theorem inverted_twice (lit on : Prop) : ¬ (¬ (lit ↔ on) ↔ on) ↔ lit := by
  by_cases hlit : lit <;> by_cases hon : on <;> simp [hlit, hon]

/-- What the second of two draws meets: the sprite lights, on an empty screen, the pixels it is on. -/
theorem collision_on_drawn {s t : State} {x y : Reg} {n : Nibble}
    (hlit : ∀ c r, c < 64 → r < 32 → (litAuth t c r ↔ ¬ (litAuth s c r ↔ spriteOn s x y n c r)))
    (hsame : ∀ c r, spriteOn t x y n c r ↔ spriteOn s x y n c r)
    (hdark : ∀ c r, c < 64 → r < 32 → ¬ litAuth s c r) :
    (∃ c r, c < 64 ∧ r < 32 ∧ spriteOn t x y n c r ∧ litAuth t c r) ↔
      ∃ k, k < n.toNat ∧ s.readByte (s.i.toNat + k) ≠ 0 := by
  rw [← exists_spriteOn_iff s x y n]
  refine exists_congr fun c => exists_congr fun r => and_congr_right fun hc => and_congr_right fun hr => ?_
  rw [hlit c r hc hr, hsame c r, iff_false_left (hdark c r hc hr), not_not, and_self]

/-- Settles O36: both draws invert the same pixels (`spriteOn_of_same`), so the second undoes the first, and on an empty screen it
meets every pixel the first has lit. -/
theorem drawTwiceRestores : Obligations.DrawTwiceRestores := by
  intro x y n s hinv hx hy hin hauth hdisp
  obtain ⟨t, hdraw, hlit, -, hmiss, -, -, houtside, hregs, hframe, -⟩ :=
    (drawInvertsSpritePixels x y n s hinv).2 (.inr hin)
  obtain ⟨-, -, -, hcfg⟩ := noInstructionWritesHostState _ s t hdraw
  have hi : t.i = s.i := by rw [hframe]
  have hsame := spriteOn_of_same (n := n) hi (hregs x (by simpa using hx)) (hregs y (by simpa using hy))
    fun k hk => houtside _ (by omega) (by omega)
  have hin' : t.i.toNat + n.toNat ≤ t.cfg.memSize := by rwa [hi, hcfg]
  obtain ⟨u, hdraw', hlit', hhit', hmiss', -⟩ :=
    (drawInvertsSpritePixels x y n t (hinv.exec hdraw)).2 (.inr hin')
  obtain ⟨-, -, -, hcfg'⟩ := noInstructionWritesHostState _ t u hdraw'
  refine ⟨t, u, hdraw, hdraw',
    fun k => readByte_auth_of_lit (hcfg'.trans hcfg) fun c r hc hr => ?restored, fun hempty => ⟨?first, ?second⟩⟩
  case restored => rw [hlit' c r hc hr, hlit c r hc hr, hsame c r, inverted_twice]
  case first => exact hmiss fun ⟨_, _, hc, hr, _, hlit⟩ => not_litAuth_of_empty hempty hc hr hlit
  case second =>
    rw [← collision_on_drawn hlit hsame (fun _ _ => not_litAuth_of_empty hempty)]
    refine ⟨fun hone => ?_, hhit'⟩
    by_contra hnone
    exact absurd (hone.symm.trans (hmiss' hnone)) (by decide)

end Sys2Proof.Machine
end
